-- ==== Sys2Proof/Word.lean ====
section
/-! DEFINITION. The vector types of the CORE, at the fixed widths of 00_scope.md R6. -/

namespace Sys2Proof

/-- One byte. -/
abbrev Byte := BitVec 8

/-- A 32-bit word: a command, STATUS, a SHA-1 word, a Feistel half (R6). -/
abbrev Word := BitVec 32

/-- A 28-bit half, C or D, of the permuted key (R25). -/
abbrev KeyHalf := BitVec 28

/-- A 48-bit round key (R29). -/
abbrev RoundKey := BitVec 48

/-- A 64-bit key or block (R24, R30). -/
abbrev Block := BitVec 64

end Sys2Proof
end

