-- ==== Sys2Proof/Syntax.lean ====
section
/-! DEFINITION. The commands of the CORE: one constructor per row of spec/opcode_table.json (30_encoding.md R73). -/

namespace Sys2Proof

/-- A command. `klen`, where a command takes one, is the number of bytes in the key the host was
given, 0 to 255 (R72); `Instr.wf` says so. -/
inductive Instr where
  /-- SYS.NOP, R210. -/
  | sysNop
  /-- SYS.RESET, R211. -/
  | sysReset
  /-- KS.LOAD klen, R112. -/
  | ksLoad (klen : Nat)
  /-- KS.INIT klen, R108. -/
  | ksInit (klen : Nat)
  /-- KS.STEP, R110. -/
  | ksStep
  /-- DES.ENC, R144. -/
  | desEnc
  /-- DES.DEC, R145. -/
  | desDec
  /-- SHA.INIT, R169. -/
  | shaInit
  /-- SHA.BLOCK, R171. -/
  | shaBlock
  /-- RSA.MUL, R193. -/
  | rsaMul
  /-- RSA.EXP, R196. -/
  | rsaExp
  deriving DecidableEq, Repr

end Sys2Proof
end

