-- ==== Sys2Proof/WellFormed.lean ====
section
/-! DEFINITION. Which commands have an encoding. -/

namespace Sys2Proof

/-- `klen` is an 8-bit unsigned immediate: 0 to 255 (R72). -/
def klenFits (klen : Nat) : Bool := decide (klen ≤ 255)

/-- A command is well formed when its immediate, where it takes one, fits the ARG field (R70, R72). -/
def Instr.wf : Instr → Bool
  | .ksLoad klen => klenFits klen
  | .ksInit klen => klenFits klen
  | .sysNop => true
  | .sysReset => true
  | .ksStep => true
  | .desEnc => true
  | .desDec => true
  | .shaInit => true
  | .shaBlock => true
  | .rsaMul => true
  | .rsaExp => true

end Sys2Proof
end

