-- ==== Sys2Proof/Decode.lean ====
section
/-! DEFINITION. Command words: the decoder (R71), the encoder (R73), and the opcode map as rows. -/

namespace Sys2Proof

/-- Why a word is no command (R75). The machine treats all four alike (IllegalCommand); the names, and
which is given when several apply, are the model's (DESIGN CHOICE, log 18; safe). -/
inductive Illegal where
  /-- The ZERO field is not 0. -/
  | zeroFieldNotZero
  /-- UNIT is 5 to 15. -/
  | reservedUnit
  /-- FUNC is not listed for the UNIT. -/
  | reservedFunc
  /-- ARG is not 0 and the command takes no immediate. -/
  | argNotZero
  deriving DecidableEq, Repr

/-- UNIT, `w[31:28]` (R70). -/
def unitField (w : Word) : BitVec 4 := w.extractLsb' 28 4

/-- FUNC, `w[27:24]` (R70). -/
def funcField (w : Word) : BitVec 4 := w.extractLsb' 24 4

/-- ZERO, `w[23:8]` (R70). -/
def zeroField (w : Word) : BitVec 16 := w.extractLsb' 8 16

/-- ARG, `w[7:0]` (R70). -/
def argField (w : Word) : BitVec 8 := w.extractLsb' 0 8

/-- A row that takes no immediate: ARG must be 0 (R71). -/
def withoutArg (w : Word) (i : Instr) : Except Illegal Instr :=
  if argField w = 0 then .ok i else .error .argNotZero

/-- Decoding, R71: reads no state, is total, and rejects every word of R75. -/
def decode (w : Word) : Except Illegal Instr :=
  if zeroField w ≠ 0 then .error .zeroFieldNotZero
  else match (unitField w).toNat, (funcField w).toNat with
    | 0, 0 => withoutArg w .sysNop
    | 0, 1 => withoutArg w .sysReset
    | 1, 0 => .ok (.ksLoad (argField w).toNat)
    | 1, 1 => .ok (.ksInit (argField w).toNat)
    | 1, 2 => withoutArg w .ksStep
    | 2, 0 => withoutArg w .desEnc
    | 2, 1 => withoutArg w .desDec
    | 3, 0 => withoutArg w .shaInit
    | 3, 1 => withoutArg w .shaBlock
    | 4, 0 => withoutArg w .rsaMul
    | 4, 1 => withoutArg w .rsaExp
    | unit, _ => if unit ≤ 4 then .error .reservedFunc else .error .reservedUnit

/-- The command word of the format CMD32 with the given fields (R70). -/
def commandWord (unit func : BitVec 4) (arg : BitVec 8) : Word :=
  unit ++ func ++ (0 : BitVec 16) ++ arg

/-- The word of a command (R73). -/
def encode : Instr → Word
  | .sysNop => commandWord 0 0 0
  | .sysReset => commandWord 0 1 0
  | .ksLoad klen => commandWord 1 0 (BitVec.ofNat 8 klen)
  | .ksInit klen => commandWord 1 1 (BitVec.ofNat 8 klen)
  | .ksStep => commandWord 1 2 0
  | .desEnc => commandWord 2 0 0
  | .desDec => commandWord 2 1 0
  | .shaInit => commandWord 3 0 0
  | .shaBlock => commandWord 3 1 0
  | .rsaMul => commandWord 4 0 0
  | .rsaExp => commandWord 4 1 0

/-- A row of the opcode map: a word selects it exactly when `w AND mask = pattern` (R73). -/
structure OpcodeRow where
  pattern : Word
  mask : Word
  deriving DecidableEq, Repr

/-- The row of a command, as R73's table prints its match and mask. -/
def Instr.row : Instr → OpcodeRow
  | .sysNop => ⟨0x00000000, 0xFFFFFFFF⟩
  | .sysReset => ⟨0x01000000, 0xFFFFFFFF⟩
  | .ksLoad _ => ⟨0x10000000, 0xFFFFFF00⟩
  | .ksInit _ => ⟨0x11000000, 0xFFFFFF00⟩
  | .ksStep => ⟨0x12000000, 0xFFFFFFFF⟩
  | .desEnc => ⟨0x20000000, 0xFFFFFFFF⟩
  | .desDec => ⟨0x21000000, 0xFFFFFFFF⟩
  | .shaInit => ⟨0x30000000, 0xFFFFFFFF⟩
  | .shaBlock => ⟨0x31000000, 0xFFFFFFFF⟩
  | .rsaMul => ⟨0x40000000, 0xFFFFFFFF⟩
  | .rsaExp => ⟨0x41000000, 0xFFFFFFFF⟩

/-- A word selects a row (R73). -/
def OpcodeRow.selects (r : OpcodeRow) (w : Word) : Prop := w &&& r.mask = r.pattern

/-- The eleven rows of R73, in the table's order. -/
def opcodeMap : List OpcodeRow :=
  [Instr.row .sysNop, Instr.row .sysReset, Instr.row (.ksLoad 0), Instr.row (.ksInit 0),
    Instr.row .ksStep, Instr.row .desEnc, Instr.row .desDec, Instr.row .shaInit,
    Instr.row .shaBlock, Instr.row .rsaMul, Instr.row .rsaExp]

/-- The host's question: the command the decoder reads from the table's `nbits` bits `w`, bits above
`nbits` being 0. A command is one 32-bit word (R70), so nothing longer is one; how its bytes travel is
REGMAP (R58). -/
def decodeTableWord (nbits w : Nat) : Option Instr :=
  if w % 2 ^ nbits < 2 ^ 32 then
    match decode (BitVec.ofNat 32 (w % 2 ^ nbits)) with
    | .ok i => some i
    | .error _ => none
  else none

end Sys2Proof
end

