-- ==== Sys2Proof/Machine/Bits.lean ====
section
/-! DEFINITION. The DES view of a bit vector: 00_scope.md R12 to R15. -/

namespace Sys2Proof.Machine

/-- `v{i}`, R12: the `i`-th bit from the left, `i` from 1. -/
def desBit {n : Nat} (v : BitVec n) (i : Nat) : Bool := v.getMsbD (i - 1)

/-- `v{i .. i+m-1}`, R12: `m` bits from bit `i` on. -/
def desSlice {n : Nat} (v : BitVec n) (i m : Nat) : BitVec m := v.extractLsb' (n + 1 - i - m) m

/-- `permute(T, v)`, R14: bit `j` of the result is bit `T[j]` of `v`. -/
def permute {n m : Nat} (table : Vector Nat m) (v : BitVec n) : BitVec m :=
  (BitVec.ofBoolListBE (table.toList.map (desBit v))).cast (by simp)

/-- `rotl_n(v, s)`, R15: cyclic left rotation. -/
def rotl {n : Nat} (v : BitVec n) (s : Nat) : BitVec n := v.rotateLeft s

end Sys2Proof.Machine
end

