-- ==== Sys2Proof/Config.lean ====
section
/-! DEFINITION. What one implementation or its environment fixes, and the free values.

`NBITS` (R7) is taken infinite, as 92_eei_decisions.md D13 permits: an RSA register holds a natural
number and no rule truncates (DESIGN CHOICE, log 1; safe). `REGMAP` (R10) is used by no rule and is
not here (log 6). `TEXTENC` (R8) is an argument of the host-level operations (log 10). -/

namespace Sys2Proof.Config

/-- What reset number `k` leaves in the `w`-bit data register with identifier `rid`, when the data registers
held `before`: "unspecified" (R43, U1). No body: no proof can see the value. That it depends on these
arguments and on nothing else is the model's choice (DESIGN CHOICE, log 3). -/
opaque resetBits : (k : Nat) → (before : List Nat) → (rid w : Nat) → BitVec w

/-- What reset number `k` leaves in the RSA register with identifier `rid`, when the data registers held
`before` (R43, U1; its arguments are the model's choice: DESIGN CHOICE, log 3). -/
opaque resetOperand : (k : Nat) → (before : List Nat) → (rid : Nat) → Nat

/-- `MR_ROUNDS` (R9): Miller–Rabin rounds a prime candidate must survive. -/
def mrRounds : Nat := 5

/-- `E_DEFAULT` (R9): the default public exponent. -/
def eDefault : Nat := 65537

end Sys2Proof.Config
end

