-- ==== Sys2Proof/Machine/Registers.lean ====
section
/-! DEFINITION. The register space (10_state.md R21), and the events and answers of the host port
(20_memory.md R53, R60). -/

namespace Sys2Proof.Machine

/-- The registers of R21. Index `i` of `rk` is the spec's `RK[i+1]`: the file is `RK[1..16]`. -/
inductive Reg where
  | cmd
  | status
  | key
  | c
  | d
  | blk
  | rk (i : Fin 16)
  | h (i : Fin 5)
  | msg (i : Fin 16)
  | opa
  | opb
  | expo
  | modn
  | res
  deriving DecidableEq, Repr

/-- The register identifier of R21's table. -/
def Reg.rid : Reg → Nat
  | .cmd => 0x00
  | .status => 0x01
  | .key => 0x02
  | .c => 0x03
  | .d => 0x04
  | .blk => 0x05
  | .rk i => 0x10 + i.val
  | .h i => 0x20 + i.val
  | .msg i => 0x30 + i.val
  | .opa => 0x40
  | .opb => 0x41
  | .expo => 0x42
  | .modn => 0x43
  | .res => 0x44

/-- The register an identifier names; `none` for the unassigned ones (R21, R59). -/
def Reg.ofRid (rid : Nat) : Option Reg :=
  if rid = 0x00 then some .cmd
  else if rid = 0x01 then some .status
  else if rid = 0x02 then some .key
  else if rid = 0x03 then some .c
  else if rid = 0x04 then some .d
  else if rid = 0x05 then some .blk
  else if h : 0x10 ≤ rid ∧ rid ≤ 0x1F then some (.rk ⟨rid - 0x10, by omega⟩)
  else if h : 0x20 ≤ rid ∧ rid ≤ 0x24 then some (.h ⟨rid - 0x20, by omega⟩)
  else if h : 0x30 ≤ rid ∧ rid ≤ 0x3F then some (.msg ⟨rid - 0x30, by omega⟩)
  else if rid = 0x40 then some .opa
  else if rid = 0x41 then some .opb
  else if rid = 0x42 then some .expo
  else if rid = 0x43 then some .modn
  else if rid = 0x44 then some .res
  else none

/-- The width of a register (R21); `none` is `NBITS`, taken infinite (log 1). -/
def Reg.width : Reg → Option Nat
  | .cmd => some 32
  | .status => some 32
  | .key => some 64
  | .c => some 28
  | .d => some 28
  | .blk => some 64
  | .rk _ => some 48
  | .h _ => some 32
  | .msg _ => some 32
  | .opa => none
  | .opb => none
  | .expo => none
  | .modn => none
  | .res => none

/-- A register identifier that names no register (R59). -/
abbrev UnassignedRid := { rid : Nat // Reg.ofRid rid = none }

/-- A host write WR(reg, v): one whole register at its full width (R51, R213), so the value's type is
the register's. A write to an unassigned identifier carries no value that matters: it is ignored. -/
inductive RegWrite where
  | cmd (w : Word)
  | status (v : Word)
  | key (v : Block)
  | c (v : KeyHalf)
  | d (v : KeyHalf)
  | blk (v : Block)
  | rk (i : Fin 16) (v : RoundKey)
  | h (i : Fin 5) (v : Word)
  | msg (i : Fin 16) (v : Word)
  | opa (v : Nat)
  | opb (v : Nat)
  | expo (v : Nat)
  | modn (v : Nat)
  | res (v : Nat)
  | unassigned (rid : UnassignedRid)
  deriving DecidableEq, Repr

/-- One event at the port of the CORE (R18, R54, R300, R302). -/
inductive HostEvent where
  /-- RD of the register with this identifier (R212). -/
  | rd (rid : Nat)
  /-- WR of a register (R213); `wr (.cmd w)` issues the command word `w` (R22). -/
  | wr (write : RegWrite)
  /-- The hardware reset, between two accesses (R300). -/
  | reset
  /-- The hardware reset that arrives while the command word `w` is executing (R302). -/
  | resetDuring (w : Word)
  deriving DecidableEq, Repr

/-- What the port answers (R60, R212). -/
inductive Reply where
  /-- RD returned this value, in the integer view (R11). -/
  | data (rid : Nat) (v : Nat)
  /-- A WR returned: it, and the command it issued, is complete (R60). -/
  | done
  deriving DecidableEq, Repr

end Sys2Proof.Machine
end

