-- ==== Sys2Proof/Machine/State.lean ====
section
/-! DEFINITION. The state of one CORE (10_state.md R20), as plain data, and its reset state (R43). -/

namespace Sys2Proof.Machine

/-- The data registers: what a reset leaves unspecified (R43). -/
structure DataRegs where
  /-- KEY (R24). -/
  key : Block
  /-- C, the left half of the permuted key (R25). -/
  c : KeyHalf
  /-- D, the right half of the permuted key (R25). -/
  d : KeyHalf
  /-- RK (R29): index `i` holds `RK[i+1]`. -/
  rk : Vector RoundKey 16
  /-- BLK (R30). -/
  blk : Block
  /-- H[0..4] (R31). -/
  h : Vector Word 5
  /-- MSG[0..15] (R33). -/
  msg : Vector Word 16
  /-- OPA (R34). The RSA registers are natural numbers: NBITS is taken infinite (log 1). -/
  opa : Nat
  /-- OPB (R34). -/
  opb : Nat
  /-- EXPO (R35). -/
  expo : Nat
  /-- MODN (R36). -/
  modn : Nat
  /-- RES (R37). -/
  res : Nat
  deriving DecidableEq, Repr

/-- The state of one CORE (R20), with the host port's queues. CMD and STATUS are no storage (R22, R23). -/
structure State extends DataRegs where
  /-- ERR: the outcome code of the most recent command (R38). -/
  err : BitVec 4
  /-- KSL: C and D come from a key loaded since reset (R27). -/
  ksl : Bool
  /-- KSRND: round keys derived since the last load, 0 to 16 (R26). -/
  ksrnd : BitVec 5
  /-- SHV: H holds a hash computation begun since reset (R32). -/
  shv : Bool
  /-- The model's own: the host events the CORE has not taken yet, oldest first (log 4). -/
  pending : List HostEvent
  /-- The model's own: what the port has answered, newest first (log 4). -/
  replies : List Reply
  /-- The model's own: how many resets have drawn free register contents (log 3). -/
  freeCount : Nat
  deriving DecidableEq, Repr

/-- Why the machine stops. -/
inductive Fault where
  /-- KS.STEP found KSRND at 17 to 31 in a state with KSL = 1. The spec says these values never occur
  (R26, R44) and gives no effect; no run reaches such a state. Safe (log 7). -/
  | roundCounterOutOfRange
  deriving DecidableEq, Repr

/-- Why an operation has no meaning. No command is ever refused; all but the first belong to the
host-level operations of 45_host_operations.md, on inputs outside their domain. All are safe. -/
inductive Refusal where
  /-- An instruction without a meaning yet (none is left). -/
  | notModelled (mnemonic : String)
  /-- A BlockCipher operation on a CORE that holds no instance (KSV = 0): R220, R225 (log 11). -/
  | noCipherInstance
  /-- DES_DECRYPT of a text that is not groups of 16 upper-case hex digits: U3, R227 (log 12). -/
  | hexTextOutsideDomain
  /-- RSA_DECRYPT met a result over 255: U4, R259 (log 12). -/
  | byteOutOfRange
  /-- SHA1_HASH of 2^61 bytes or more: U5, R240 (log 12). -/
  | messageTooLong
  /-- RSA_NEW or RSA_GENKEYS with bitLength below 16: U6, R251 (log 12). -/
  | bitLengthTooSmall
  /-- A draw outside the range its rule states: R250 (log 13). -/
  | drawOutOfRange
  deriving DecidableEq, Repr

/-- The reset state of R43 with the data registers holding `data`: the spec promises nothing about
them, so claims about reset are made for every `data`. -/
def State.resetWith (data : DataRegs) : State where
  toDataRegs := data
  err := 0
  ksl := false
  ksrnd := 0
  shv := false
  pending := []
  replies := []
  freeCount := 0

/-- Every data register zero: the contents `State.reset` names (DESIGN CHOICE, log 2; unsafe). -/
def DataRegs.zero : DataRegs where
  key := 0
  c := 0
  d := 0
  rk := Vector.replicate 16 0
  blk := 0
  h := Vector.replicate 5 0
  msg := Vector.replicate 16 0
  opa := 0
  opb := 0
  expo := 0
  modn := 0
  res := 0

/-- The machine right after reset (R43, R300): STATUS reads 0; the data registers, which the spec leaves
unspecified, are zero (DESIGN CHOICE, log 2; unsafe); no event is waiting. -/
def State.reset : State := State.resetWith DataRegs.zero

end Sys2Proof.Machine
end

