-- ==== Sys2Proof/Machine/Flags.lean ====
section
/-! DEFINITION. The error codes (60_exceptions.md R270), the derived flag KSV (R28) and STATUS (R23). -/

namespace Sys2Proof.Machine

/-- The errors a command can raise (R270). -/
inductive CmdError where
  | invalidKeyLength
  | notReady
  | sequenceError
  | modulusError
  | illegalCommand
  deriving DecidableEq, Repr

/-- `code(X)`, R270. -/
def CmdError.code : CmdError → BitVec 4
  | .invalidKeyLength => 1
  | .notReady => 2
  | .sequenceError => 3
  | .modulusError => 4
  | .illegalCommand => 5

/-- KSV, R28: the schedule is complete. -/
def State.ksv (s : State) : Bool := s.ksl && s.ksrnd == 16

/-- A one-bit flag at bit `i` of a 32-bit word. -/
def flagAt (b : Bool) (i : Nat) : Word := (BitVec.ofBool b).setWidth 32 <<< i

/-- STATUS, R23. -/
def State.status (s : State) : Word :=
  s.err.setWidth 32 ||| flagAt s.ksl 4 ||| flagAt s.ksv 5 ||| flagAt s.shv 6 |||
    s.ksrnd.setWidth 32 <<< 8

end Sys2Proof.Machine
end

