-- ==== Sys2Proof/Machine/Ops.lean ====
section
/-! DEFINITION. The named operations over the registers: raising an error, completing, resetting,
reading and writing a register, answering the host. The CORE has no byte memory (R50). -/

namespace Sys2Proof.Machine

/-- What a step answers. -/
abbrev Result := Host.Outcome State Fault Refusal

/-- ERR <- e (R38). -/
def State.setErr (e : BitVec 4) (s : State) : State := { s with err := e }

/-- The port answers the host (R60, R212). -/
def State.answer (r : Reply) (s : State) : State := { s with replies := r :: s.replies }

/-- The host's events still to come. -/
def State.setPending (es : List HostEvent) (s : State) : State := { s with pending := es }

/-- `raise X`, R272: ERR <- code(X) and nothing else; the command completes normally at the port. This is
the whole of the CORE's exception entry (R280), and there is no return from one (R281). -/
def raise (e : CmdError) (s : State) : Result := .next (s.setErr e.code)

/-- A command succeeds: ERR <- 0 (R38), over the registers it has written. -/
def complete (s : State) : Result := .next (s.setErr 0)

/-- What the data registers hold, in the order of their identifiers (R21) and in the integer view (R11). -/
def DataRegs.contents (r : DataRegs) : List Nat :=
  [r.key.toNat, r.c.toNat, r.d.toNat, r.blk.toNat] ++ r.rk.toList.map BitVec.toNat ++
    r.h.toList.map BitVec.toNat ++ r.msg.toList.map BitVec.toNat ++ [r.opa, r.opb, r.expo, r.modn, r.res]

/-- Register contents that reset number `k` leaves: free values (R43, U1, R211). R211 allows erasure and does
not promise it, so a free value may depend on all that the data registers held, `before`; two runs that
differ there have contents of which nothing relates one to the other. The model's choice (DESIGN CHOICE,
log 3): the contents depend on `k` and `before` alone, so two runs equal in both have equal contents. -/
def DataRegs.unspecified (k : Nat) (before : DataRegs) : DataRegs where
  key := Config.resetBits k before.contents (Reg.rid .key) 64
  c := Config.resetBits k before.contents (Reg.rid .c) 28
  d := Config.resetBits k before.contents (Reg.rid .d) 28
  rk := Vector.ofFn fun i => Config.resetBits k before.contents (Reg.rid (.rk i)) 48
  blk := Config.resetBits k before.contents (Reg.rid .blk) 64
  h := Vector.ofFn fun i => Config.resetBits k before.contents (Reg.rid (.h i)) 32
  msg := Vector.ofFn fun i => Config.resetBits k before.contents (Reg.rid (.msg i)) 32
  opa := Config.resetOperand k before.contents (Reg.rid .opa)
  opb := Config.resetOperand k before.contents (Reg.rid .opb)
  expo := Config.resetOperand k before.contents (Reg.rid .expo)
  modn := Config.resetOperand k before.contents (Reg.rid .modn)
  res := Config.resetOperand k before.contents (Reg.rid .res)

/-- The effect of a reset on the CORE (R43, R211, R300, R301): the flags 0, every data register
unspecified. The host's queue and the answers it has had are the host's and stay. -/
def resetCore (s : State) : State :=
  { s with
    toDataRegs := DataRegs.unspecified s.freeCount s.toDataRegs
    err := 0
    ksl := false
    ksrnd := 0
    shv := false
    freeCount := s.freeCount + 1 }

/-- The value RD returns for a register (R212), in the integer view (R11): CMD reads 0 (R22). -/
def State.read (s : State) : Reg → Nat
  | .cmd => 0
  | .status => s.status.toNat
  | .key => s.key.toNat
  | .c => s.c.toNat
  | .d => s.d.toNat
  | .blk => s.blk.toNat
  | .rk i => s.rk[i].toNat
  | .h i => s.h[i].toNat
  | .msg i => s.msg[i].toNat
  | .opa => s.opa
  | .opb => s.opb
  | .expo => s.expo
  | .modn => s.modn
  | .res => s.res

/-- The value RD returns for an identifier: an unassigned one reads 0 (R212). -/
def State.readRid (s : State) (rid : Nat) : Nat :=
  match Reg.ofRid rid with
  | some r => s.read r
  | none => 0

/-- What a WR stores (R213): KEY, BLK, MSG[i], OPA, OPB, EXPO, MODN take the value; a write to a
read-only register or an unassigned identifier is ignored; CMD has no storage (R22). -/
def State.store (s : State) : RegWrite → State
  | .cmd _ => s
  | .status _ => s
  | .key v => { s with key := v }
  | .c _ => s
  | .d _ => s
  | .blk v => { s with blk := v }
  | .rk _ _ => s
  | .h _ _ => s
  | .msg i v => { s with msg := s.msg.set i v }
  | .opa v => { s with opa := v }
  | .opb v => { s with opb := v }
  | .expo v => { s with expo := v }
  | .modn v => { s with modn := v }
  | .res _ => s
  | .unassigned _ => s

/-- The command word a write issues: only a write to CMD issues one (R22). -/
def RegWrite.command? : RegWrite → Option Word
  | .cmd w => some w
  | .status _ => none
  | .key _ => none
  | .c _ => none
  | .d _ => none
  | .blk _ => none
  | .rk _ _ => none
  | .h _ _ => none
  | .msg _ _ => none
  | .opa _ => none
  | .opb _ => none
  | .expo _ => none
  | .modn _ => none
  | .res _ => none
  | .unassigned _ => none

end Sys2Proof.Machine
end

