-- ==== Sys2Proof/Machine/Des.lean ====
section
/-! DEFINITION. The FE unit, the DES Feistel engine (41_des_feistel_engine.md). -/

namespace Sys2Proof.Machine

/-- S-box lookup, R136: the row is the group's outer bits, the column its four inner bits. -/
def sBoxLookup (box : SBox) (g : BitVec 6) : BitVec 4 :=
  let row := desSlice g 1 1 ++ desSlice g 6 1
  let col := desSlice g 2 4
  box[row.toFin][col.toFin]

/-- The eight substitutions of R137: group 1, leftmost, through S_1, gives the leftmost four bits. -/
def substitute (x : BitVec 48) : Word :=
  sBoxLookup sBox1 (desSlice x 1 6) ++ sBoxLookup sBox2 (desSlice x 7 6) ++
    sBoxLookup sBox3 (desSlice x 13 6) ++ sBoxLookup sBox4 (desSlice x 19 6) ++
    sBoxLookup sBox5 (desSlice x 25 6) ++ sBoxLookup sBox6 (desSlice x 31 6) ++
    sBoxLookup sBox7 (desSlice x 37 6) ++ sBoxLookup sBox8 (desSlice x 43 6)

/-- The F-function, R137. -/
def feistelF (r : Word) (k : RoundKey) : Word := permute pTable (substitute (permute eTable r ^^^ k))

/-- The left and right halves of a block inside the engine (R41: transient). -/
structure LR where
  l : Word
  r : Word
  deriving DecidableEq, Repr

/-- One Feistel round, R138. -/
def feistelRound (x : LR) (k : RoundKey) : LR := ⟨x.r, x.l ^^^ feistelF x.r k⟩

/-- DESblock, R139, with the final swap of R140: `keys` in the order they are used. -/
def desBlock (v : Block) (keys : List RoundKey) : Block :=
  let t := permute ipTable v
  let x := keys.foldl feistelRound ⟨desSlice t 1 32, desSlice t 33 32⟩
  permute fpTable (x.r ++ x.l)

/-- DES.ENC, R144: round keys 1 to 16 in order. -/
def execDesEnc (s : State) : Result :=
  if s.ksv = false then raise .notReady s
  else complete { s with blk := desBlock s.blk s.rk.toList }

/-- DES.DEC, R145: round keys 16 to 1; the RK file is read, not reordered. -/
def execDesDec (s : State) : Result :=
  if s.ksv = false then raise .notReady s
  else complete { s with blk := desBlock s.blk s.rk.toList.reverse }

end Sys2Proof.Machine
end

