-- ==== Sys2Proof/Machine/Operands.lean ====
section
/-! DEFINITION. The operand forms: the immediate `klen` (R72, R107), and how byte sequences and
register values stand for one another (20_memory.md R55, R56). -/

namespace Sys2Proof.Machine

/-- The one length `new(key)` accepts (R107). -/
def keyLength : Nat := 8

/-- Key length check, R107: shared by KS.INIT and KS.LOAD. -/
def keyLengthOk (klen : Nat) : Bool := klen == keyLength

/-- The immediate a host passes for a key of `len` bytes: `min(L, 255)` (R72, R222). -/
def klenFor (len : Nat) : Nat := min len 255

/-- A byte sequence read as an integer, first byte most significant (R55, R56). -/
def bytesToNat (bs : List Byte) : Nat := bs.foldl (fun acc b => acc * 256 + b.toNat) 0

/-- The `n` bytes of an integer, most significant first (R55, R56, R240). -/
def natToBytes (n v : Nat) : List Byte :=
  (List.range n).map fun k => BitVec.ofNat 8 (v / 256 ^ (n - 1 - k))

/-- An 8-byte sequence as a key or block, R55. -/
def blockOfBytes (bs : List Byte) : Block := BitVec.ofNat 64 (bytesToNat bs)

/-- The 8 bytes of a block, R55. -/
def blockBytes (v : Block) : List Byte := natToBytes 8 v.toNat

/-- Consecutive `n`-byte pieces of a sequence, in order: piece `j` is bytes `n*j .. n*j + n-1`
(R224, R241). Only whole pieces are given. -/
def pieces (n : Nat) (bs : List Byte) : List (List Byte) :=
  (List.range (bs.length / n)).map fun j => (bs.drop (n * j)).take n

/-- Word `i` of a 64-byte chunk, R56. -/
def chunkWord (ch : List Byte) (i : Nat) : Word :=
  BitVec.ofNat 32 (bytesToNat ((ch.drop (4 * i)).take 4))

end Sys2Proof.Machine
end

