-- ==== Sys2Proof/Machine/Ks.lean ====
section
/-! DEFINITION. The KS unit, round key derivation (40_des_key_scheduler.md). -/

namespace Sys2Proof.Machine

/-- The two halves of the permuted key. -/
structure Halves where
  c : KeyHalf
  d : KeyHalf
  deriving DecidableEq, Repr

/-- `C_0` and `D_0`, R104: PC-1 of the key, split. -/
def permutedKey (k : Block) : Halves :=
  let cd := permute pc1 k
  ⟨desSlice cd 1 28, desSlice cd 29 28⟩

/-- Round `r`'s rotation, each half on its own (R104). -/
def rotateHalves (r : Nat) (x : Halves) : Halves :=
  ⟨rotl x.c (shiftAmount r), rotl x.d (shiftAmount r)⟩

/-- PC-2 of `C ‖ D`, R104. -/
def selectRoundKey (x : Halves) : RoundKey := permute pc2 (x.c ++ x.d)

/-- `C_r` and `D_r`, R104. -/
def halvesAfter (k : Block) : Nat → Halves
  | 0 => permutedKey k
  | r + 1 => rotateHalves (r + 1) (halvesAfter k r)

/-- `K_r`, R104. -/
def roundKeyOf (k : Block) (r : Nat) : RoundKey := selectRoundKey (halvesAfter k r)

/-- `K_1` to `K_16`, R104. -/
def scheduleOf (k : Block) : Vector RoundKey 16 := Vector.ofFn fun i => roundKeyOf k (i.val + 1)

/-- KS.INIT klen, R108. -/
def execKsInit (klen : Nat) (s : State) : Result :=
  if keyLengthOk klen then
    let x := permutedKey s.key
    complete { s with c := x.c, d := x.d, ksrnd := 0, ksl := true }
  else raise .invalidKeyLength s

/-- The derivation of round `i + 1` inside KS.STEP, R110. -/
def deriveRound (i : Fin 16) (s : State) : State :=
  let x := rotateHalves (i.val + 1) ⟨s.c, s.d⟩
  { s with
    c := x.c
    d := x.d
    rk := s.rk.set i (selectRoundKey x)
    ksrnd := BitVec.ofNat 5 (i.val + 1) }

/-- KS.STEP, R110, R111. KSRND at 17 to 31 never occurs (R26, R44): there the machine stops (log 7). -/
def execKsStep (s : State) : Result :=
  if s.ksl = false then raise .notReady s
  else if s.ksrnd = 16 then raise .sequenceError s
  else if h : s.ksrnd.toNat < 16 then complete (deriveRound ⟨s.ksrnd.toNat, h⟩ s)
  else .fault .roundCounterOutOfRange

/-- KS.LOAD klen, R112. -/
def execKsLoad (klen : Nat) (s : State) : Result :=
  if keyLengthOk klen then
    let x := halvesAfter s.key 16
    complete { s with c := x.c, d := x.d, rk := scheduleOf s.key, ksrnd := 16, ksl := true }
  else raise .invalidKeyLength s

end Sys2Proof.Machine
end

