-- ==== Sys2Proof/Machine/Rsa.lean ====
section
/-! DEFINITION. The MM and ME units, RSA modular multiply and exponentiate (43_rsa_modmul_modexp.md),
on exact natural numbers (R191). -/

namespace Sys2Proof.Machine

/-- The multiplier, R193: the full product, reduced. -/
def modMul (a b n : Nat) : Nat := (a * b) % n

/-- `bitlen(x)`, R197: the position of the highest set bit plus one. -/
def bitLength (x : Nat) : Nat := if x = 0 then 0 else Nat.log2 x + 1

/-- The loop of R197 over bits `i - 1` down to 0 of the exponent, from the accumulator `r`. -/
def expLoop (b x n : Nat) : (i r : Nat) → Nat
  | 0, r => r
  | i + 1, r =>
    let square := modMul r r n
    expLoop b x n i (if x.testBit i then modMul square b n else square)

/-- `powmod(b, x, n)` for `n >= 1`, by the micro-sequence of R197; its value is `b^x mod n` of R195
(a law of the model; log 9). -/
def powmod (b x n : Nat) : Nat := expLoop b x n (bitLength x) (1 % n)

/-- RSA.MUL, R192, R193. -/
def execRsaMul (s : State) : Result :=
  if s.modn = 0 then raise .modulusError s
  else complete { s with res := modMul s.opa s.opb s.modn }

/-- RSA.EXP, R192, R196. -/
def execRsaExp (s : State) : Result :=
  if s.modn = 0 then raise .modulusError s
  else complete { s with res := powmod s.opa s.expo s.modn }

end Sys2Proof.Machine
end

