-- ==== Sys2Proof/Machine/Sha.lean ====
section
/-! DEFINITION. The SHA unit, the SHA-1 compression function (42_sha1_compression.md). Additions are
`BitVec` additions, modulo 2^32 (R165). The round constants, the three functions and the round update
are supplied by the spec from general knowledge (G8 to G10; log 21). -/

namespace Sys2Proof.Machine

/-- HINIT, R161. -/
def shaInitial : Vector Word 5 :=
  #v[0x67452301, 0xEFCDAB89, 0x98BADCFE, 0x10325476, 0xC3D2E1F0]

/-- K(t), R162. -/
def shaK (t : Nat) : Word :=
  if t < 20 then 0x5A827999
  else if t < 40 then 0x6ED9EBA1
  else if t < 60 then 0x8F1BBCDC
  else 0xCA62C1D6

/-- f(t, x, y, z), R163: Ch, Parity, Maj, Parity. -/
def shaF (t : Nat) (x y z : Word) : Word :=
  if t < 20 then (x &&& y) ||| (~~~x &&& z)
  else if t < 40 then x ^^^ y ^^^ z
  else if t < 60 then (x &&& y) ||| (x &&& z) ||| (y &&& z)
  else x ^^^ y ^^^ z

/-- `W[i]` from the words before it, R164: `i` is the number of words so far, at least 16. -/
def nextScheduleWord (w : List Word) : Word :=
  let i := w.length
  rotl (w.getD (i - 3) 0 ^^^ w.getD (i - 8) 0 ^^^ w.getD (i - 14) 0 ^^^ w.getD (i - 16) 0) 1

/-- `n` more words of the message schedule, R164. -/
def extendSchedule : Nat → List Word → List Word
  | 0, w => w
  | n + 1, w => extendSchedule n (w ++ [nextScheduleWord w])

/-- `W[0..79]`, R164. -/
def messageSchedule (m : Vector Word 16) : List Word := extendSchedule 64 m.toList

/-- The working variables (R41: transient). -/
structure Working where
  a : Word
  b : Word
  c : Word
  d : Word
  e : Word
  deriving DecidableEq, Repr

/-- Round `t` with schedule word `w`, R166: all right-hand sides are the values before the round. -/
def shaRound (t : Nat) (w : Word) (x : Working) : Working where
  a := rotl x.a 5 + shaF t x.b x.c x.d + x.e + shaK t + w
  b := x.a
  c := rotl x.b 30
  d := x.c
  e := x.d

/-- The working variables after the first `n` rounds over the schedule `w`, R167. -/
def shaRounds (w : List Word) (x : Working) : Nat → Working
  | 0 => x
  | n + 1 => shaRound n (w.getD n 0) (shaRounds w x n)

/-- SHAcompress, R167. -/
def shaCompress (h : Vector Word 5) (m : Vector Word 16) : Vector Word 5 :=
  let x := shaRounds (messageSchedule m) ⟨h[0], h[1], h[2], h[3], h[4]⟩ 80
  #v[h[0] + x.a, h[1] + x.b, h[2] + x.c, h[3] + x.d, h[4] + x.e]

/-- SHA.INIT, R169. -/
def execShaInit (s : State) : Result := complete { s with h := shaInitial, shv := true }

/-- SHA.BLOCK, R170, R171. -/
def execShaBlock (s : State) : Result :=
  if s.shv = false then raise .notReady s
  else complete { s with h := shaCompress s.h s.msg }

end Sys2Proof.Machine
end

