-- ==== Sys2Proof/Machine/Sys.lean ====
section
/-! DEFINITION. The system commands (44_system_and_access.md). -/

namespace Sys2Proof.Machine

/-- SYS.NOP, R210. -/
def execSysNop (s : State) : Result := complete s

/-- SYS.RESET, R211: the reset state, exactly as the hardware reset leaves it (R301). -/
def execSysReset (s : State) : Result := .next (resetCore s)

end Sys2Proof.Machine
end

