-- ==== Sys2Proof/Machine/Dispatch.lean ====
section
/-! DEFINITION. One arm per command, each a direct call of its meaning. -/

namespace Sys2Proof.Machine

def exec (i : Instr) (s : State) : Host.Outcome State Fault Refusal :=
  match i with
  | .sysNop => Sys2Proof.Machine.execSysNop s
  | .sysReset => Sys2Proof.Machine.execSysReset s
  | .ksLoad klen => Sys2Proof.Machine.execKsLoad klen s
  | .ksInit klen => Sys2Proof.Machine.execKsInit klen s
  | .ksStep => Sys2Proof.Machine.execKsStep s
  | .desEnc => Sys2Proof.Machine.execDesEnc s
  | .desDec => Sys2Proof.Machine.execDesDec s
  | .shaInit => Sys2Proof.Machine.execShaInit s
  | .shaBlock => Sys2Proof.Machine.execShaBlock s
  | .rsaMul => Sys2Proof.Machine.execRsaMul s
  | .rsaExp => Sys2Proof.Machine.execRsaExp s

end Sys2Proof.Machine
end

