-- ==== Sys2Proof/Machine/Port.lean ====
section
/-! DEFINITION. The host port: what each event does (20_memory.md R53, R54, R60; 44_system_and_access.md
R212, R213; 70_reset_and_hazards.md R300, R302). -/

namespace Sys2Proof.Machine

/-- The issue of a command word, R22: decode, then execute; an illegal word raises IllegalCommand before
any test of a command's own (R75, R278). -/
def issue (w : Word) (s : State) : Result :=
  match decode w with
  | .ok i => exec i s
  | .error _ => raise .illegalCommand s

/-- A write returns to the host when what it started is complete, whether it succeeded or raised an
error (R60, R272). -/
def returned : Result → Result
  | .next s => .next (s.answer .done)
  | .fault f => .fault f
  | .refused r => .refused r

/-- One event at the port. A reset leaves the reset state and answers nothing; one that arrives during a
command ends it, and its write is not reported complete (R302; log 8). -/
def event (e : HostEvent) (s : State) : Result :=
  match e with
  | .rd rid => .next (s.answer (.data rid (s.readRid rid)))
  | .wr write =>
    match write.command? with
    | some w => returned (issue w s)
    | none => returned (.next (s.store write))
  | .reset => .next (resetCore s)
  | .resetDuring _ => .next (resetCore s)

/-- The CORE takes the oldest waiting event; with none waiting it does nothing (R300, R289; log 4,
log 5). -/
def takeEvent (s : State) : Result :=
  match s.pending with
  | [] => .next s
  | e :: rest => event e (s.setPending rest)

end Sys2Proof.Machine
end

