-- ==== Sys2Proof/Machine/Step.lean ====
section
/-! DEFINITION. One step of the machine, and where the next command is placed. -/

namespace Sys2Proof.Machine

/-- One step: one event of the one total order (R54, R61). -/
def step (s : State) : Host.Outcome State Fault Refusal := takeEvent s

/-- The state whose very next step runs the command word `w` (its low `nbits` bits, at most the 32 of a
command, R70): a write of the word to CMD, first in the host's queue. The CORE fetches nothing (R40). -/
def State.withFetchWord (s : State) (nbits w : Nat) : State :=
  s.setPending (.wr (.cmd (BitVec.ofNat 32 (w % 2 ^ nbits))) :: s.pending)

end Sys2Proof.Machine
end

