-- ==== Sys2Proof/Machine/HostRun.lean ====
section
/-! DEFINITION. How a host-level operation uses the port (30_encoding.md R77, R78; 45_host_operations.md R220,
R263): a straight line of events, the values its RDs returned, and an answer computed from them. -/

namespace Sys2Proof.Machine

/-- The errors of DOC0's taxonomy a host-level operation can return (R263, R271). -/
inductive HostError where
  | invalidKeyLength
  | paddingError
  | decodeError
  | noKeyError
  | messageTooLarge
  | inverseNotFound
  /-- A filesystem error, propagated and not translated (R243): whatever the filesystem named it by. -/
  | filesystem (name : List Char)
  deriving DecidableEq, Repr

/-- What a host-level operation answers: the CORE it leaves and its result. -/
abbrev HostResult (α : Type) := Host.Outcome (State × α) Fault Refusal

/-- Events applied one after the other, in the order the host issues them (R61, R313). -/
def runEvents : List HostEvent → State → Result
  | [], s => .next s
  | e :: es, s =>
    match event e s with
    | .next s' => runEvents es s'
    | .fault f => .fault f
    | .refused r => .refused r

/-- The value an answer of the port carries, if it is RD's. -/
def Reply.value? : Reply → Option Nat
  | .data _ v => some v
  | .done => none

/-- What a run lets the host observe: the values its RDs returned, oldest first (R313). -/
def State.observed (s : State) : List Nat := s.replies.reverse.filterMap Reply.value?

/-- A host-level operation: issue `es`, then answer from the values its RDs returned. -/
def hostCall {α : Type} (es : List HostEvent) (s : State) (answer : List Nat → α) : HostResult α :=
  match runEvents es { s with replies := [] } with
  | .next t => .next ({ t with replies := t.replies ++ s.replies }, answer t.observed)
  | .fault f => .fault f
  | .refused r => .refused r

/-- The issue of a command: a write of its word to CMD (R22, R77). -/
def HostEvent.command (i : Instr) : HostEvent := .wr (.cmd (encode i))

end Sys2Proof.Machine
end

