-- ==== Sys2Proof/Machine/Text.lean ====
section
/-! DEFINITION. Text at the host level: TEXTENC (00_scope.md R8, R221), UTF-8, and hex text
(45_host_operations.md R226, R227, R242). The CORE never sees text. -/

namespace Sys2Proof.Machine

/-- Text, as its characters. -/
abbrev Text := List Char

/-- A text encoding, the parameter TEXTENC (R8, U15; log 10): `decode` fails on bytes that are not a
valid encoding (R221). -/
structure TextEnc where
  encode : Text → List Byte
  decode : List Byte → Option Text

/-- What R221 asks of an encoding: decoding the encoding of a text gives the text. -/
def TextEnc.Lossless (enc : TextEnc) : Prop := ∀ t, enc.decode (enc.encode t) = some t

/-- An argument of type `bytes|text` (R221). -/
inductive Message where
  | bytes (b : List Byte)
  | text (t : Text)
  deriving DecidableEq, Repr

/-- The bytes of an argument, R221. -/
def Message.toBytes (enc : TextEnc) : Message → List Byte
  | .bytes b => b
  | .text t => enc.encode t

/-- The UTF-8 bytes of a character (PRESUMED, log 10). -/
def utf8Char (c : Char) : List Byte :=
  let n := c.toNat
  if n < 0x80 then [BitVec.ofNat 8 n]
  else if n < 0x800 then [BitVec.ofNat 8 (0xC0 + n / 64), BitVec.ofNat 8 (0x80 + n % 64)]
  else if n < 0x10000 then
    [BitVec.ofNat 8 (0xE0 + n / 4096), BitVec.ofNat 8 (0x80 + n / 64 % 64), BitVec.ofNat 8 (0x80 + n % 64)]
  else
    [BitVec.ofNat 8 (0xF0 + n / 262144), BitVec.ofNat 8 (0x80 + n / 4096 % 64),
      BitVec.ofNat 8 (0x80 + n / 64 % 64), BitVec.ofNat 8 (0x80 + n % 64)]

/-- A UTF-8 continuation byte. -/
def utf8Cont (b : Byte) : Bool := 0x80 ≤ b.toNat && b.toNat < 0xC0

/-- One decoded code point `n`, which must be a character and at least `least` (no overlong form), in
front of the decoded rest. -/
def utf8Cons (least n : Nat) (rest : Option Text) : Option Text :=
  if least ≤ n ∧ n.isValidChar then rest.map (Char.ofNat n :: ·) else none

/-- UTF-8 decoding (PRESUMED, log 10): overlong forms, surrogates and values over 10FFFF are invalid. -/
def utf8Decode : List Byte → Option Text
  | [] => some []
  | b0 :: r0 =>
    if b0.toNat < 0x80 then utf8Cons 0 b0.toNat (utf8Decode r0)
    else match r0 with
      | [] => none
      | b1 :: r1 =>
        if ¬ utf8Cont b1 then none
        else if 0xC0 ≤ b0.toNat ∧ b0.toNat < 0xE0 then
          utf8Cons 0x80 ((b0.toNat - 0xC0) * 64 + (b1.toNat - 0x80)) (utf8Decode r1)
        else match r1 with
          | [] => none
          | b2 :: r2 =>
            if ¬ utf8Cont b2 then none
            else if 0xE0 ≤ b0.toNat ∧ b0.toNat < 0xF0 then
              utf8Cons 0x800
                ((b0.toNat - 0xE0) * 4096 + (b1.toNat - 0x80) * 64 + (b2.toNat - 0x80)) (utf8Decode r2)
            else match r2 with
              | [] => none
              | b3 :: r3 =>
                if ¬ utf8Cont b3 then none
                else if 0xF0 ≤ b0.toNat ∧ b0.toNat < 0xF8 then
                  utf8Cons 0x10000
                    ((b0.toNat - 0xF0) * 262144 + (b1.toNat - 0x80) * 4096 + (b2.toNat - 0x80) * 64
                      + (b3.toNat - 0x80)) (utf8Decode r3)
                else none

/-- The encoding of the spec's examples: UTF-8 (R8, D14). -/
def TextEnc.utf8 : TextEnc where
  encode t := t.flatMap utf8Char
  decode := utf8Decode

/-- The digits of R226. -/
def upperDigits : Vector Char 16 :=
  #v['0', '1', '2', '3', '4', '5', '6', '7', '8', '9', 'A', 'B', 'C', 'D', 'E', 'F']

/-- The digits of R242. -/
def lowerDigits : Vector Char 16 :=
  #v['0', '1', '2', '3', '4', '5', '6', '7', '8', '9', 'a', 'b', 'c', 'd', 'e', 'f']

/-- The first `n` hex digits of a vector, most significant nibble first (R226, R242). -/
def hexDigits {w : Nat} (digits : Vector Char 16) (n : Nat) (v : BitVec w) : Text :=
  (List.range n).map fun k => digits[(desSlice v (4 * k + 1) 4).toFin]

/-- `hex16`, R226. -/
def hex16 (v : Block) : Text := hexDigits upperDigits 16 v

/-- `hex40`, R242. -/
def hex40 (h : List Word) : Text := h.flatMap (hexDigits lowerDigits 8)

/-- The value of an upper-case hex digit; `none` for any other character (R227, U3). -/
def hexValue (c : Char) : Option Nat :=
  if '0' ≤ c ∧ c ≤ '9' then some (c.toNat - '0'.toNat)
  else if 'A' ≤ c ∧ c ≤ 'F' then some (c.toNat - 'A'.toNat + 10)
  else none

/-- The number a group of hex digits writes, first digit most significant, in front of which `acc` stands. -/
def hexNumber : Text → (acc : Nat) → Option Nat
  | [], acc => some acc
  | c :: t, acc =>
    match hexValue c with
    | some v => hexNumber t (acc * 16 + v)
    | none => none

/-- `n` groups of 16 digits as blocks, and nothing after them (R227). -/
def hexGroups : (n : Nat) → Text → Option (List Block)
  | 0, t => if t = [] then some [] else none
  | n + 1, t =>
    match hexNumber (t.take 16) 0, hexGroups n (t.drop 16) with
    | some v, some vs => some (BitVec.ofNat 64 v :: vs)
    | _, _ => none

/-- Hex parsing, R227: one or more groups of 16 upper-case digits; `none` outside that domain (U3). -/
def parseHex (t : Text) : Option (List Block) :=
  if t = [] ∨ t.length % 16 ≠ 0 then none else hexGroups (t.length / 16) t

end Sys2Proof.Machine
end

