-- ==== Sys2Proof/Machine/HostDes.lean ====
section
/-! DEFINITION. BlockCipher at the host level (45_host_operations.md R222 to R230). -/

namespace Sys2Proof.Machine

/-- The events of DES_NEW, R222. -/
def desNewEvents (key : List Byte) : List HostEvent :=
  (if key.length = 8 then [.wr (.key (blockOfBytes key))] else []) ++
    [.command (.ksLoad (klenFor key.length)), .rd (Reg.rid .status)]

/-- DES_NEW, R222: a cipher instance is the CORE with its schedule complete (R220). -/
def desNew (key : List Byte) (s : State) : HostResult (Except HostError Unit) :=
  hostCall (desNewEvents key) s fun vs =>
    if vs.getD 0 0 % 16 = 1 then .error .invalidKeyLength else .ok ()

/-- Padding, R223: `p` bytes of value `p`, `p = 8 - (len mod 8)`. -/
def desPad (m : List Byte) : List Byte :=
  let p := 8 - m.length % 8
  m ++ List.replicate p (BitVec.ofNat 8 p)

/-- Unpadding, R229; `none` is PaddingError. The range test comes first. -/
def desUnpad (pm : List Byte) : Option (List Byte) :=
  let p := (pm.getLastD 0).toNat
  if p < 1 ∨ 8 < p then none
  else if (pm.drop (pm.length - p)).all (fun b => b.toNat == p) then some (pm.take (pm.length - p))
  else none

/-- One block through the engine: write it, run, read it back (R225, R228). -/
def blockEvents (i : Instr) (v : Block) : List HostEvent :=
  [.wr (.blk v), .command i, .rd (Reg.rid .blk)]

/-- DES_ENCRYPT, R225, on a constructed instance (log 11). -/
def desEncrypt (enc : TextEnc) (plaintext : Message) (s : State) : HostResult Text :=
  if s.ksv = false then .refused .noCipherInstance
  else
    let blocks := (pieces 8 (desPad (plaintext.toBytes enc))).map blockOfBytes
    hostCall (blocks.flatMap (blockEvents .desEnc)) s fun vs =>
      vs.flatMap fun v => hex16 (BitVec.ofNat 64 v)

/-- What DES_DECRYPT makes of the decrypted bytes: the padding check, then the decoding (R228 to R230). -/
def decryptedText (enc : TextEnc) (pm : List Byte) : Except HostError Text :=
  match desUnpad pm with
  | none => .error .paddingError
  | some m =>
    match enc.decode m with
    | none => .error .decodeError
    | some t => .ok t

/-- DES_DECRYPT, R228, on a constructed instance (log 11); texts outside the domain have no result (U3,
log 12). -/
def desDecrypt (enc : TextEnc) (hex : Text) (s : State) : HostResult (Except HostError Text) :=
  if s.ksv = false then .refused .noCipherInstance
  else
    match parseHex hex with
    | none => .refused .hexTextOutsideDomain
    | some blocks =>
      hostCall (blocks.flatMap (blockEvents .desDec)) s fun vs =>
        decryptedText enc (vs.flatMap fun v => blockBytes (BitVec.ofNat 64 v))

end Sys2Proof.Machine
end

