-- ==== Sys2Proof/Machine/KeyGen.lean ====
section
/-! DEFINITION. RSA key generation (45_host_operations.md R249 to R256): host-side computation over a
sequence of random draws (log 13). It issues no CORE command (log 14). -/

namespace Sys2Proof.Machine

/-- An exponent and a modulus. -/
structure RsaKey where
  exponent : Nat
  modulus : Nat
  deriving DecidableEq, Repr

/-- A generated pair (R251): the two moduli are the same (R256). -/
structure KeyPair where
  pub : RsaKey
  prv : RsaKey
  deriving DecidableEq, Repr

/-- A PublicKeyCipher instance (R220): host state, not the CORE's (R42). -/
structure PkCipher where
  bits : Nat
  pub : Option RsaKey
  prv : Option RsaKey
  deriving DecidableEq, Repr

/-- RSA_NEW, R249; no result below 16 (U6, log 12). -/
def rsaNew (bitLength : Nat) : Host.Outcome PkCipher Fault Refusal :=
  if bitLength < 16 then .refused .bitLengthTooSmall
  else .next { bits := bitLength, pub := none, prv := none }

/-- A candidate of `b` bits from a draw, R252: top bit and low bit set. -/
def primeCandidate (b x : Nat) : Nat := x ||| 2 ^ (b - 1) ||| 1

/-- `(s, t)` with `n = 2^s * t`, `t` odd (R253), for `n >= 1` and enough fuel. -/
def twoPart : (fuel n : Nat) → Nat × Nat
  | 0, n => (0, n)
  | fuel + 1, n =>
    if n % 2 = 0 then
      let (s, t) := twoPart fuel (n / 2)
      (s + 1, t)
    else (0, n)

/-- One of `k` successive squarings of `x` modulo `c` yields `c - 1` (R253). -/
def squaringsReach (c : Nat) : (k x : Nat) → Bool
  | 0, _ => false
  | k + 1, x =>
    let y := powmod x 2 c
    y == c - 1 || squaringsReach c k y

/-- One Miller–Rabin round for the odd candidate `c` with witness `a`, R253. -/
def millerRabinPasses (c a : Nat) : Bool :=
  let (s, t) := twoPart (bitLength (c - 1)) (c - 1)
  let x := powmod a t c
  x == 1 || x == c - 1 || squaringsReach c (s - 1) x

/-- Extended Euclid, iteratively (R255): from remainders `r0, r1` and the coefficients `t0, t1` of `e`. -/
def egcd : (fuel r0 r1 : Nat) → (t0 t1 : Int) → Nat × Int
  | 0, r0, _, t0, _ => (r0, t0)
  | fuel + 1, r0, r1, t0, t1 =>
    if r1 = 0 then (r0, t0) else egcd fuel r1 (r0 % r1) t1 (t0 - (r0 / r1 : Nat) * t1)

/-- `inverse(e, phi)`, R255: the inverse in `[0, phi)`; `none` is InverseNotFound. -/
def modInverse (e phi : Nat) : Option Nat :=
  let (g, t) := egcd (phi + 1) e phi 1 0
  if g = 1 then some (t % phi).toNat else none

/-- How far key generation has come. It is fed one draw at a time; the searches are unbounded (R326), so
"still waiting for a draw" is a state of its own (U13). -/
inductive KeyGen where
  /-- Waits for a prime candidate: for p, or for q when p is known. -/
  | candidate (p : Option Nat)
  /-- Waits for a witness for candidate `c`, which has passed `passed` rounds. -/
  | witness (p : Option Nat) (c passed : Nat)
  /-- Waits for a replacement exponent. -/
  | exponent (p q : Nat)
  /-- The pair is generated. -/
  | finished (pair : KeyPair)
  /-- The defensive outcome of R255 (U7), which no run reaches. -/
  | inverseNotFound
  /-- The oracle gave a number outside the range of its draw (R250): no run of the hardware's host. -/
  | drawOutOfRange
  deriving DecidableEq, Repr

/-- phi of R251. -/
def totient (p q : Nat) : Nat := (p - 1) * (q - 1)

/-- The pair for `p`, `q` and a chosen `e` (R251, R255). -/
def finishPair (p q e : Nat) : KeyGen :=
  match modInverse e (totient p q) with
  | some d => .finished { pub := ⟨e, p * q⟩, prv := ⟨d, p * q⟩ }
  | none => .inverseNotFound

/-- The first choice of R254: 65537 when it is coprime to phi, unreduced; else draw. -/
def chooseE (p q : Nat) : KeyGen :=
  if Nat.gcd Config.eDefault (totient p q) = 1 then finishPair p q Config.eDefault else .exponent p q

/-- A probable prime is found (R251): it is p, or a q to be drawn again if it equals p. -/
def acceptPrime (p : Option Nat) (c : Nat) : KeyGen :=
  match p with
  | none => .candidate (some c)
  | some p => if c = p then .candidate (some p) else chooseE p c

/-- One draw, `b` being half the bit length (R251 to R254). -/
def KeyGen.draw (b : Nat) (g : KeyGen) (x : Nat) : KeyGen :=
  match g with
  | .candidate p => if x < 2 ^ b then .witness p (primeCandidate b x) 0 else .drawOutOfRange
  | .witness p c passed =>
    if ¬ (2 ≤ x ∧ x ≤ c - 2) then .drawOutOfRange
    else if ¬ millerRabinPasses c x then .candidate p
    else if passed + 1 < Config.mrRounds then .witness p c (passed + 1)
    else acceptPrime p c
  | .exponent p q =>
    if ¬ (x % 2 = 1 ∧ 3 ≤ x ∧ x < totient p q) then .drawOutOfRange
    else if Nat.gcd x (totient p q) = 1 then finishPair p q x
    else .exponent p q
  | .finished pair => .finished pair
  | .inverseNotFound => .inverseNotFound
  | .drawOutOfRange => .drawOutOfRange

/-- Key generation over a sequence of draws. -/
def keyGenRun (bitLength : Nat) (draws : List Nat) : KeyGen :=
  draws.foldl (KeyGen.draw (bitLength / 2)) (.candidate none)

/-- What RSA_GENKEYS answers after a sequence of draws. -/
inductive KeyGenAnswer where
  | keys (pair : KeyPair)
  | inverseNotFound
  /-- The search goes on: it wants a draw. -/
  | waiting (g : KeyGen)
  deriving DecidableEq, Repr

/-- RSA_GENKEYS, R251, for a sequence of draws: a generated pair replaces the instance's (R256). -/
def rsaGenKeys (cipher : PkCipher) (draws : List Nat) :
    Host.Outcome (PkCipher × KeyGenAnswer) Fault Refusal :=
  if cipher.bits < 16 then .refused .bitLengthTooSmall
  else
    match keyGenRun cipher.bits draws with
    | .finished pair => .next ({ cipher with pub := some pair.pub, prv := some pair.prv }, .keys pair)
    | .inverseNotFound => .next (cipher, .inverseNotFound)
    | .drawOutOfRange => .refused .drawOutOfRange
    | .candidate p => .next (cipher, .waiting (.candidate p))
    | .witness p c passed => .next (cipher, .waiting (.witness p c passed))
    | .exponent p q => .next (cipher, .waiting (.exponent p q))

end Sys2Proof.Machine
end

