-- ==== Sys2Proof/Machine/HostRsa.lean ====
section
/-! DEFINITION. PublicKeyCipher's four operations at the host level (45_host_operations.md R257 to R261). -/

namespace Sys2Proof.Machine

/-- The effective key, R257: the argument if given, else the stored key. -/
def effectiveKey (given stored : Option RsaKey) : Option RsaKey :=
  match given with
  | some k => some k
  | none => stored

/-- Load the exponent and the modulus (R258, R259). -/
def loadKeyEvents (k : RsaKey) : List HostEvent := [.wr (.expo k.exponent), .wr (.modn k.modulus)]

/-- One base through the exponentiator (R258, R259). -/
def expEvents (m : Nat) : List HostEvent :=
  [.wr (.opa m), .command .rsaExp, .rd (Reg.rid .res)]

/-- RSA_ENCRYPT, R258: each byte on its own. -/
def rsaEncrypt (enc : TextEnc) (text : Message) (given : Option RsaKey) (cipher : PkCipher)
    (s : State) : HostResult (Except HostError (List Nat)) :=
  match effectiveKey given cipher.pub with
  | none => .next (s, .error .noKeyError)
  | some k =>
    hostCall (loadKeyEvents k ++ (text.toBytes enc).flatMap fun b => expEvents b.toNat) s .ok

/-- RSA_DECRYPT's answer, R259: results over 255 are outside the domain (U4, log 12). -/
def decodedBytes (enc : TextEnc) (ms : List Nat) : Except HostError Text :=
  match enc.decode (ms.map (BitVec.ofNat 8)) with
  | none => .error .decodeError
  | some t => .ok t

/-- RSA_DECRYPT, R259. -/
def rsaDecrypt (enc : TextEnc) (ciphers : List Nat) (given : Option RsaKey) (cipher : PkCipher)
    (s : State) : HostResult (Except HostError Text) :=
  match effectiveKey given cipher.prv with
  | none => .next (s, .error .noKeyError)
  | some k =>
    match hostCall (loadKeyEvents k ++ ciphers.flatMap expEvents) s id with
    | .next (t, ms) =>
      if ms.all (· < 256) then .next (t, decodedBytes enc ms) else .refused .byteOutOfRange
    | .fault f => .fault f
    | .refused r => .refused r

/-- The events of RSA_ENCNUM and RSA_DECNUM (R260, R261). -/
def numberEvents (m : Nat) (k : RsaKey) : List HostEvent :=
  [.wr (.opa m), .wr (.expo k.exponent), .wr (.modn k.modulus), .command .rsaExp, .rd (Reg.rid .res)]

/-- RSA_ENCNUM, R260: NoKeyError first, then the range test. -/
def rsaEncNum (m : Nat) (given : Option RsaKey) (cipher : PkCipher) (s : State) :
    HostResult (Except HostError Nat) :=
  match effectiveKey given cipher.pub with
  | none => .next (s, .error .noKeyError)
  | some k =>
    if m ≥ k.modulus then .next (s, .error .messageTooLarge)
    else hostCall (numberEvents m k) s fun vs => .ok (vs.getD 0 0)

/-- RSA_DECNUM, R261: no range test. -/
def rsaDecNum (c : Nat) (given : Option RsaKey) (cipher : PkCipher) (s : State) :
    HostResult (Except HostError Nat) :=
  match effectiveKey given cipher.prv with
  | none => .next (s, .error .noKeyError)
  | some k => hostCall (numberEvents c k) s fun vs => .ok (vs.getD 0 0)

end Sys2Proof.Machine
end

