-- ==== Sys2Proof/Machine/HostSha.lean ====
section
/-! DEFINITION. Hash at the host level (45_host_operations.md R240 to R243). -/

namespace Sys2Proof.Machine

/-- SHA-1 padding, R240: 0x80, the least number of zero bytes that makes the length 56 mod 64, and the
bit length in 8 bytes, most significant first. -/
def shaPad (m : List Byte) : List Byte :=
  m ++ [0x80] ++ List.replicate ((119 - m.length % 64) % 64) 0 ++ natToBytes 8 (8 * m.length)

/-- One chunk: write its sixteen words, then SHA.BLOCK (R241). -/
def chunkEvents (ch : List Byte) : List HostEvent :=
  (List.finRange 16).map (fun i => .wr (.msg i (chunkWord ch i.val))) ++ [.command .shaBlock]

/-- The events of SHA1_HASH, R241. -/
def shaHashEvents (m : List Byte) : List HostEvent :=
  [.command .shaInit] ++ (pieces 64 (shaPad m)).flatMap chunkEvents ++
    (List.finRange 5).map fun i => .rd (Reg.rid (.h i))

/-- SHA1_HASH of bytes, R241; specified below 2^61 bytes (R240, U5; log 12). -/
def shaHashBytes (m : List Byte) (s : State) : HostResult Text :=
  if m.length < 2 ^ 61 then
    hostCall (shaHashEvents m) s fun vs => hex40 (vs.map (BitVec.ofNat 32))
  else .refused .messageTooLong

/-- SHA1_HASH, R241. -/
def shaHash (enc : TextEnc) (message : Message) (s : State) : HostResult Text :=
  shaHashBytes (message.toBytes enc) s

/-- SHA1_HASHFILE, R243: `file` is the filesystem's answer for each path, bytes or an error name (log 15).
On an error no command is issued. -/
def shaHashFile (file : Text → Except Text (List Byte)) (path : Text) (s : State) :
    HostResult (Except HostError Text) :=
  match file path with
  | .error name => .next (s, .error (.filesystem name))
  | .ok bytes =>
    match shaHashBytes bytes s with
    | .next (t, digest) => .next (t, .ok digest)
    | .fault f => .fault f
    | .refused r => .refused r

end Sys2Proof.Machine
end

