-- ==== Sys2Proof/Safety.lean ====
section
/-! DEFINITION. What claims are stated in: the invariants of 10_state.md R44, sequences of commands, and
which commands belong to which engine (00_scope.md R2). -/

namespace Sys2Proof.Machine

/-- C and D, and the round keys derived so far, belong to the key `k`: R44's last clause and R114. -/
structure ScheduledFrom (k : Block) (s : State) : Prop where
  c_eq : s.c = rotl (permutedKey k).c (shiftSum s.ksrnd.toNat % 28)
  d_eq : s.d = rotl (permutedKey k).d (shiftSum s.ksrnd.toNat % 28)
  rk_eq : ∀ i : Fin 16, i.val < s.ksrnd.toNat → s.rk[i] = roundKeyOf k (i.val + 1)

/-- The invariants of R44, with R114 for the loaded key. -/
structure Inv (s : State) : Prop where
  ksrnd_le : s.ksrnd.toNat ≤ 16
  ksrnd_zero : s.ksl = false → s.ksrnd = 0
  err_le : s.err.toNat ≤ 5
  scheduled : s.ksl = true → ∃ k, ScheduledFrom k s

/-- A step is safe when the machine goes on. -/
def SafeStep (s : State) : Prop := ∃ t, step s = .next t

/-- Commands one after the other. -/
def execSeq : List Instr → State → Result
  | [], s => .next s
  | i :: is, s =>
    match exec i s with
    | .next t => execSeq is t
    | .fault f => .fault f
    | .refused r => .refused r

/-- The three engines of R2, and the system commands, which belong to none. -/
inductive Engine where
  | cipher
  | hash
  | rsa
  deriving DecidableEq, Repr

/-- The engine a command belongs to (R2, R73). -/
def engineOf : Instr → Option Engine
  | .sysNop => none
  | .sysReset => none
  | .ksLoad _ => some .cipher
  | .ksInit _ => some .cipher
  | .ksStep => some .cipher
  | .desEnc => some .cipher
  | .desDec => some .cipher
  | .shaInit => some .hash
  | .shaBlock => some .hash
  | .rsaMul => some .rsa
  | .rsaExp => some .rsa

/-- Two states hold the same registers of the DES engine (R214, R323). -/
structure AgreeCipher (s t : State) : Prop where
  key : s.key = t.key
  c : s.c = t.c
  d : s.d = t.d
  rk : s.rk = t.rk
  blk : s.blk = t.blk
  ksl : s.ksl = t.ksl
  ksrnd : s.ksrnd = t.ksrnd

/-- Two states hold the same registers of the SHA-1 engine (R214, R323). -/
structure AgreeHash (s t : State) : Prop where
  h : s.h = t.h
  msg : s.msg = t.msg
  shv : s.shv = t.shv

/-- Two states hold the same registers of the RSA engine (R214, R323). -/
structure AgreeRsa (s t : State) : Prop where
  opa : s.opa = t.opa
  opb : s.opb = t.opb
  expo : s.expo = t.expo
  modn : s.modn = t.modn
  res : s.res = t.res

/-- Two states hold the same registers of an engine. -/
def Engine.Agree : Engine → State → State → Prop
  | .cipher => AgreeCipher
  | .hash => AgreeHash
  | .rsa => AgreeRsa

/-- The RSA registers hold operands of a CORE with `NBITS = n` (R7). -/
structure FitsNbits (n : Nat) (s : State) : Prop where
  opa : s.opa < 2 ^ n
  opb : s.opb < 2 ^ n
  expo : s.expo < 2 ^ n
  modn : s.modn < 2 ^ n
  res : s.res < 2 ^ n

/-- The events that hand the CORE one chunk and compress it: sixteen writes, then SHA.BLOCK (R311). -/
def chunkRun (m : Vector Word 16) : List HostEvent :=
  (List.finRange 16).map (fun i => .wr (.msg i m[i])) ++ [.command .shaBlock]

/-- An event that neither loads a key nor resets: it is no successful KS.INIT or KS.LOAD (R108, R112), no
SYS.RESET and no hardware reset. -/
def HostEvent.KeepsKey : HostEvent → Prop
  | .rd _ => True
  | .wr write =>
    ∀ w, write.command? = some w →
      decode w ≠ .ok (.ksInit 8) ∧ decode w ≠ .ok (.ksLoad 8) ∧ decode w ≠ .ok .sysReset
  | .reset => False
  | .resetDuring _ => False

/-- An event that writes neither BLK nor a complete schedule (R146's "no key command between"): no write of
BLK, no DES.ENC or DES.DEC, and nothing that loads a key or resets. The commands that fail while KSV = 1
(KS.STEP, R111; a load with a wrong length, R107) are among those that keep both. -/
def HostEvent.KeepsBlockAndKey (e : HostEvent) : Prop :=
  e.KeepsKey ∧ (∀ v, e ≠ .wr (.blk v)) ∧
    ∀ w, e = .wr (.cmd w) → decode w ≠ .ok .desEnc ∧ decode w ≠ .ok .desDec

end Sys2Proof.Machine
end

