-- ==== Sys2Proof/Certificates/Slice0/Obligations.lean ====
section
/-! DEFINITION. The statements for the provers. Each docstring names the rules of spec/ it formalises. -/

open Sys2Proof Sys2Proof.Machine

/-! ### Command words -/

/-- R70 to R73: no bit of an encoding is dropped; the immediate at every value it admits. -/
def Obligations.DecodeOfEncodeIsIdentity : Prop :=
  ∀ i : Instr, i.wf = true → decode (encode i) = .ok i

/-- R70 to R73: every legal word is the encoding of the well-formed command it decodes to. -/
def Obligations.EncodeOfDecodeIsIdentity : Prop :=
  ∀ (w : Word) (i : Instr), decode w = .ok i → i.wf = true ∧ encode i = w

/-- R73: a word selects a row exactly when `w AND mask = match`, the command is the row's, the rows are the
table's, and they are disjoint. -/
def Obligations.WordSelectsItsRowExactly : Prop :=
  (∀ (w : Word) (i : Instr), decode w = .ok i → i.row ∈ opcodeMap ∧ i.row.selects w) ∧
  (∀ (w : Word) (r : OpcodeRow), r ∈ opcodeMap → r.selects w → ∃ i, decode w = .ok i ∧ i.row = r) ∧
  Instr.row .sysNop = ⟨0x00000000, 0xFFFFFFFF⟩ ∧ Instr.row .sysReset = ⟨0x01000000, 0xFFFFFFFF⟩ ∧
  (∀ klen, Instr.row (.ksLoad klen) = ⟨0x10000000, 0xFFFFFF00⟩ ∧
    Instr.row (.ksInit klen) = ⟨0x11000000, 0xFFFFFF00⟩) ∧
  Instr.row .ksStep = ⟨0x12000000, 0xFFFFFFFF⟩ ∧ Instr.row .desEnc = ⟨0x20000000, 0xFFFFFFFF⟩ ∧
  Instr.row .desDec = ⟨0x21000000, 0xFFFFFFFF⟩ ∧ Instr.row .shaInit = ⟨0x30000000, 0xFFFFFFFF⟩ ∧
  Instr.row .shaBlock = ⟨0x31000000, 0xFFFFFFFF⟩ ∧ Instr.row .rsaMul = ⟨0x40000000, 0xFFFFFFFF⟩ ∧
  Instr.row .rsaExp = ⟨0x41000000, 0xFFFFFFFF⟩ ∧
  opcodeMap.length = 11 ∧
  opcodeMap.Pairwise fun r r' => ∀ w, ¬ (r.selects w ∧ r'.selects w)

/-- R76: exactly 521 of the 2^32 words are legal. -/
def Obligations.LegalWordsNumber521 : Prop :=
  ∃ l : List Word, l.Nodup ∧ l.length = 521 ∧ ∀ w, w ∈ l ↔ ∃ i, decode w = .ok i

/-- R75, R276: which words are illegal, and what the write of one to CMD does. -/
def Obligations.IllegalWordsRaiseIllegalCommand : Prop :=
  (∀ w : Word, (∀ i, decode w ≠ .ok i) ↔
    (5 ≤ (unitField w).toNat ∨
      ((unitField w).toNat = 0 ∧ 2 ≤ (funcField w).toNat) ∨
      ((unitField w).toNat = 1 ∧ 3 ≤ (funcField w).toNat) ∨
      ((unitField w).toNat = 2 ∧ 2 ≤ (funcField w).toNat) ∨
      ((unitField w).toNat = 3 ∧ 2 ≤ (funcField w).toNat) ∨
      ((unitField w).toNat = 4 ∧ 2 ≤ (funcField w).toNat) ∨
      zeroField w ≠ 0 ∨
      (argField w ≠ 0 ∧ ¬ ((unitField w).toNat = 1 ∧ (funcField w).toNat ≤ 1)))) ∧
  (∀ (s : State) (w : Word) (rest : List HostEvent), (∀ i, decode w ≠ .ok i) →
    s.pending = .wr (.cmd w) :: rest →
    step s = .next { s with err := 5, pending := rest, replies := .done :: s.replies })

/-- 95_test_vectors.md E1: one word of each command, written out from R73's table, and illegal words. -/
def Obligations.SpecWordsDecode : Prop :=
  decode 0x00000000 = .ok .sysNop ∧ decode 0x01000000 = .ok .sysReset ∧
  decode 0x10000008 = .ok (.ksLoad 8) ∧ decode 0x100000FF = .ok (.ksLoad 255) ∧
  decode 0x11000008 = .ok (.ksInit 8) ∧ decode 0x12000000 = .ok .ksStep ∧
  decode 0x20000000 = .ok .desEnc ∧ decode 0x21000000 = .ok .desDec ∧
  decode 0x30000000 = .ok .shaInit ∧ decode 0x31000000 = .ok .shaBlock ∧
  decode 0x40000000 = .ok .rsaMul ∧ decode 0x41000000 = .ok .rsaExp ∧
  ∀ w ∈ ([0x00000001, 0x02000000, 0x13000000, 0x12000008, 0x10000108, 0x10010008, 0x22000000,
    0x32000000, 0x42000000, 0x50000000, 0xFFFFFFFF] : List Word), ∀ i, decode w ≠ .ok i

/-! ### The port -/

/-- R22, R60, R71: when the next event writes to CMD a word that decodes to `i`, the step is `exec i` on the
state without that event, and then the write returns. The second clause is the host's placement. -/
def Obligations.StepRunsTheIssuedCommand : Prop :=
  (∀ (s : State) (w : Word) (i : Instr) (rest : List HostEvent),
    s.pending = .wr (.cmd w) :: rest → decode w = .ok i →
    step s = returned (exec i { s with pending := rest })) ∧
  (∀ (s : State) (i : Instr), i.wf = true →
    step (s.withFetchWord 32 (encode i).toNat) = returned (exec i s)) ∧
  (∀ t : State, returned (.next t) = .next { t with replies := .done :: t.replies })

/-- R212: RD returns the register's value and changes no state but the host's queue and answers. -/
def Obligations.ReadReturnsTheRegister : Prop :=
  ∀ (s : State) (rid : Nat) (rest : List HostEvent), s.pending = .rd rid :: rest →
    ∃ v, step s = .next { s with pending := rest, replies := .data rid v :: s.replies } ∧
      (rid = 0x00 → v = 0) ∧
      (rid = 0x01 → v = s.status.toNat) ∧
      (rid = 0x02 → v = s.key.toNat) ∧
      (rid = 0x03 → v = s.c.toNat) ∧
      (rid = 0x04 → v = s.d.toNat) ∧
      (rid = 0x05 → v = s.blk.toNat) ∧
      (∀ i : Fin 16, rid = 0x10 + i.val → v = s.rk[i].toNat) ∧
      (∀ i : Fin 5, rid = 0x20 + i.val → v = s.h[i].toNat) ∧
      (∀ i : Fin 16, rid = 0x30 + i.val → v = s.msg[i].toNat) ∧
      (rid = 0x40 → v = s.opa) ∧
      (rid = 0x41 → v = s.opb) ∧
      (rid = 0x42 → v = s.expo) ∧
      (rid = 0x43 → v = s.modn) ∧
      (rid = 0x44 → v = s.res) ∧
      ((0x06 ≤ rid ∧ rid ≤ 0x0F) ∨ (0x25 ≤ rid ∧ rid ≤ 0x2F) ∨ 0x45 ≤ rid → v = 0)

/-- R213: WR stores in a writable data register and does nothing else, executes a word written to CMD,
and is ignored by a read-only register or an unassigned identifier. -/
def Obligations.WriteStoresOrIsIgnored : Prop :=
  ∀ (s : State) (write : RegWrite) (rest : List HostEvent), s.pending = .wr write :: rest →
    (∀ w, write = .cmd w → step s = returned (issue w { s with pending := rest })) ∧
    ((∀ w, write ≠ .cmd w) →
      ∃ t, step s = .next { t with pending := rest, replies := .done :: s.replies } ∧
        (∀ v, write = .key v → t = { s with key := v }) ∧
        (∀ v, write = .blk v → t = { s with blk := v }) ∧
        (∀ i v, write = .msg i v → t = { s with msg := s.msg.set i v }) ∧
        (∀ v, write = .opa v → t = { s with opa := v }) ∧
        (∀ v, write = .opb v → t = { s with opb := v }) ∧
        (∀ v, write = .expo v → t = { s with expo := v }) ∧
        (∀ v, write = .modn v → t = { s with modn := v }) ∧
        ((∃ v, write = .status v) ∨ (∃ v, write = .c v) ∨ (∃ v, write = .d v) ∨
          (∃ i v, write = .rk i v) ∨ (∃ i v, write = .h i v) ∨ (∃ v, write = .res v) ∨
          (∃ rid, write = .unassigned rid) → t = s))

/-- R300 ("the CORE does nothing after reset until the host's first access"), as the model has it for every
state with no event waiting (log 5). -/
def Obligations.IdleCoreDoesNothing : Prop :=
  ∀ s : State, s.pending = [] → step s = .next s

/-- R301, R302: a hardware reset, alone or during a command, and SYS.RESET have the same effect on the CORE.
That the two leave the same values in the unspecified data registers, from one state, is the model's choice
(log 3); that a reset during a command keeps nothing of its work is R302 as log 8 reads it. -/
def Obligations.HardwareResetEqualsSysReset : Prop :=
  ∀ (s : State) (e : HostEvent) (rest : List HostEvent),
    (e = .reset ∨ ∃ w, e = .resetDuring w) → s.pending = e :: rest →
    step s = exec .sysReset { s with pending := rest }

/-- R23, R28: the fields of STATUS; a write to STATUS changes nothing but the host's queue and answers. -/
def Obligations.StatusWordLayout : Prop :=
  ∀ s : State,
    s.status.extractLsb' 0 4 = s.err ∧
    s.status.getLsbD 4 = s.ksl ∧
    s.status.getLsbD 5 = s.ksv ∧
    (s.ksv = true ↔ s.ksl = true ∧ s.ksrnd = 16) ∧
    s.status.getLsbD 6 = s.shv ∧
    s.status.getLsbD 7 = false ∧
    s.status.extractLsb' 8 5 = s.ksrnd ∧
    s.status.extractLsb' 13 19 = 0 ∧
    ∀ v rest, s.pending = .wr (.status v) :: rest →
      step s = .next { s with pending := rest, replies := .done :: s.replies }

/-! ### Errors -/

/-- R272: a word that raises an error writes ERR and nothing else; its write returns as any other. -/
def Obligations.RaiseChangesOnlyErr : Prop :=
  ∀ (s t : State) (w : Word), issue w s = .next t → t.err ≠ 0 →
    t = { s with err := t.err } ∧
    ∀ rest, step { s with pending := .wr (.cmd w) :: rest } =
      .next { s with err := t.err, pending := rest, replies := .done :: s.replies }

/-- R270: which outcome code a command word leaves, and when. -/
def Obligations.CommandOutcomeCodes : Prop :=
  ∀ (s t : State) (w : Word), issue w s = .next t →
    (t.err = 1 ↔ ∃ klen, klen ≠ 8 ∧ (decode w = .ok (.ksLoad klen) ∨ decode w = .ok (.ksInit klen))) ∧
    (t.err = 2 ↔
      (decode w = .ok .ksStep ∧ s.ksl = false) ∨
      ((decode w = .ok .desEnc ∨ decode w = .ok .desDec) ∧ s.ksv = false) ∨
      (decode w = .ok .shaBlock ∧ s.shv = false)) ∧
    (t.err = 3 ↔ decode w = .ok .ksStep ∧ s.ksl = true ∧ s.ksrnd = 16) ∧
    (t.err = 4 ↔ (decode w = .ok .rsaMul ∨ decode w = .ok .rsaExp) ∧ s.modn = 0) ∧
    (t.err = 5 ↔ ∀ i, decode w ≠ .ok i) ∧
    t.err.toNat ≤ 5

/-- R38: a command's outcome does not depend on the code before it, and no RD and no WR of a data register
changes ERR. For the word SYS.RESET the first clause also says that the unspecified data registers get the same
contents whatever ERR held: R38 and R43 do not promise that, it is the model's choice (log 3). -/
def Obligations.OutcomeIgnoresEarlierError : Prop :=
  (∀ (s : State) (w : Word) (e : BitVec 4), issue w { s with err := e } = issue w s) ∧
  (∀ (s t : State) (rid : Nat), event (.rd rid) s = .next t → t.err = s.err) ∧
  (∀ (s t : State) (write : RegWrite), (∀ w, write ≠ .cmd w) → event (.wr write) s = .next t →
    t.err = s.err)

/-! ### System commands -/

/-- R210. -/
def Obligations.NopClearsOnlyErr : Prop :=
  ∀ s : State, exec .sysNop s = .next { s with err := 0 }

/-- R211: SYS.RESET clears the flags, STATUS reads 0, and DES.ENC then fails NotReady. It leaves every data
register unspecified: nothing is said of `data`, nor of the model's own counter of resets. -/
def Obligations.SysResetClearsFlags : Prop :=
  ∀ s : State, ∃ (data : DataRegs) (count : Nat),
    exec .sysReset s = .next { s with
      toDataRegs := data, err := 0, ksl := false, ksrnd := 0, shv := false, freeCount := count } ∧
    ∀ t, exec .sysReset s = .next t →
      t.status = 0 ∧ exec .desEnc t = .next { t with err := 2 }

/-! ### The key scheduler -/

/-- R108. -/
def Obligations.KsInitLoadsPermutedKey : Prop :=
  ∀ s : State,
    exec (.ksInit 8) s = .next { s with
      c := desSlice (permute pc1 s.key) 1 28
      d := desSlice (permute pc1 s.key) 29 28
      ksrnd := 0, ksl := true, err := 0 } ∧
    ∀ klen, klen ≠ 8 → exec (.ksInit klen) s = .next { s with err := 1 }

/-- R110, R111: the round derived is KSRND + 1, whatever it is; the two errors change only ERR. KSRND above
16 never occurs (R26): `OnlyImpossibleRoundCountStops`. -/
def Obligations.KsStepDerivesNextRound : Prop :=
  ∀ s : State,
    (s.ksl = false → exec .ksStep s = .next { s with err := 2 }) ∧
    (s.ksl = true → s.ksrnd = 16 → exec .ksStep s = .next { s with err := 3 }) ∧
    (∀ r : Fin 16, s.ksl = true → s.ksrnd.toNat = r.val →
      exec .ksStep s = .next { s with
        c := rotl s.c (shiftAmount (r.val + 1))
        d := rotl s.d (shiftAmount (r.val + 1))
        rk := s.rk.set r (permute pc2 (rotl s.c (shiftAmount (r.val + 1)) ++
          rotl s.d (shiftAmount (r.val + 1))))
        ksrnd := BitVec.ofNat 5 (r.val + 1), err := 0 })

/-- The model's choice (log 7): KS.STEP with a key loaded and KSRND at 17 to 31, which the spec says never
occurs, is the one command and the one case in which the machine stops; no command is ever refused. -/
def Obligations.OnlyImpossibleRoundCountStops : Prop :=
  (∀ s : State, s.ksl = true → 16 < s.ksrnd.toNat →
    exec .ksStep s = .fault .roundCounterOutOfRange) ∧
  (∀ (i : Instr) (s : State) (f : Fault), exec i s = .fault f →
    i = .ksStep ∧ s.ksl = true ∧ 16 < s.ksrnd.toNat ∧ ¬ Inv s) ∧
  ∀ (i : Instr) (s : State) (r : Refusal), exec i s ≠ .refused r

/-- R112: the whole schedule of KEY at once, C and D back at `C_0` and `D_0`. -/
def Obligations.KsLoadDerivesWholeSchedule : Prop :=
  ∀ s : State,
    exec (.ksLoad 8) s = .next { s with
      c := (permutedKey s.key).c
      d := (permutedKey s.key).d
      rk := Vector.ofFn fun i => roundKeyOf s.key (i.val + 1)
      ksrnd := 16, ksl := true, err := 0 } ∧
    ∀ klen, klen ≠ 8 → exec (.ksLoad klen) s = .next { s with err := 1 }

/-- R113: KS.LOAD is KS.INIT and sixteen KS.STEPs; with a wrong length it is the failed KS.INIT alone. -/
def Obligations.LoadEqualsInitAndSixteenSteps : Prop :=
  ∀ s : State,
    execSeq (.ksInit 8 :: List.replicate 16 .ksStep) s = exec (.ksLoad 8) s ∧
    ∀ klen, klen ≠ 8 → exec (.ksLoad klen) s = exec (.ksInit klen) s

/-- R105, R106: the closed form of the halves and round keys, and the full turn after round 16. -/
def Obligations.HalvesClosedForm : Prop :=
  ∀ k : Block,
    (∀ r, 1 ≤ r → r ≤ 16 →
      (halvesAfter k r).c = rotl (permutedKey k).c (shiftSum r % 28) ∧
      (halvesAfter k r).d = rotl (permutedKey k).d (shiftSum r % 28) ∧
      roundKeyOf k r = permute pc2 (rotl (permutedKey k).c (shiftSum r % 28) ++
        rotl (permutedKey k).d (shiftSum r % 28))) ∧
    halvesAfter k 16 = halvesAfter k 0

/-- R115: the last bit of each key byte is never used. -/
def Obligations.IgnoredKeyBits : Prop :=
  ∀ k k' : Block, (∀ i, 1 ≤ i → i ≤ 64 → i % 8 ≠ 0 → desBit k i = desBit k' i) →
    permutedKey k = permutedKey k' ∧
    ∀ r, 1 ≤ r → r ≤ 16 → roundKeyOf k r = roundKeyOf k' r

/-- R116: the complemented key gives the complemented schedule; the two constant schedules. -/
def Obligations.ComplementedKeyComplementsSchedule : Prop :=
  (∀ k : Block,
    (permutedKey (~~~k)).c = ~~~(permutedKey k).c ∧
    (permutedKey (~~~k)).d = ~~~(permutedKey k).d ∧
    ∀ r, 1 ≤ r → r ≤ 16 → roundKeyOf (~~~k) r = ~~~(roundKeyOf k r)) ∧
  ∀ r, 1 ≤ r → r ≤ 16 →
    roundKeyOf 0x0000000000000000 r = 0x000000000000 ∧
    roundKeyOf 0x0101010101010101 r = 0x000000000000 ∧
    roundKeyOf 0xFFFFFFFFFFFFFFFF r = 0xFFFFFFFFFFFF ∧
    roundKeyOf 0xFEFEFEFEFEFEFEFE r = 0xFFFFFFFFFFFF

/-- R117: each round-key bit is the one key bit the rule's formula names. -/
def Obligations.RoundKeyBitIsOneKeyBit : Prop :=
  ∀ (k : Block) (r j p q : Nat), 1 ≤ r → r ≤ 16 → 1 ≤ j → j ≤ 48 →
    pc2.toList[j - 1]? = some p →
    (p ≤ 28 → q = (p - 1 + shiftSum r) % 28 + 1) →
    (29 ≤ p → q = 28 + (p - 29 + shiftSum r) % 28 + 1) →
    ∃ b, pc1.toList[q - 1]? = some b ∧ desBit (roundKeyOf k r) j = desBit k b

/-- R109: a write of KEY changes nothing derived from the old value; the next KS.INIT or KS.LOAD reads the
new one. -/
def Obligations.KeyWriteKeepsDerivedState : Prop :=
  ∀ (s : State) (v : Block) (rest : List HostEvent), s.pending = .wr (.key v) :: rest →
    ∃ t, step s = .next t ∧ t.key = v ∧ t.c = s.c ∧ t.d = s.d ∧ t.rk = s.rk ∧
      t.ksl = s.ksl ∧ t.ksrnd = s.ksrnd ∧ t.err = s.err ∧ t.shv = s.shv ∧ t.status = s.status ∧
      ∀ i : Instr, i = .ksInit 8 ∨ i = .ksLoad 8 → ∃ u, exec i t = .next u ∧
        u.c = (permutedKey v).c ∧ u.d = (permutedKey v).d ∧
        (i = .ksLoad 8 → ∀ j : Fin 16, u.rk[j] = roundKeyOf v (j.val + 1))

/-- R29: while KSV = 1 only KS.INIT, KS.LOAD and SYS.RESET can change the schedule; KS.STEP fails. -/
def Obligations.CompleteScheduleIsImmutable : Prop :=
  ∀ (s t : State) (w : Word), s.ksv = true → issue w s = .next t →
    decode w ≠ .ok (.ksInit 8) → decode w ≠ .ok (.ksLoad 8) → decode w ≠ .ok .sysReset →
    t.rk = s.rk ∧ t.c = s.c ∧ t.d = s.d ∧ t.ksv = true ∧
    (decode w = .ok .ksStep → t.err = 3)

/-- R114, R44: through any further events that neither load a key nor reset, C, D and the round keys
derived so far are those of the KEY value the last successful KS.INIT or KS.LOAD read. -/
def Obligations.LoadedScheduleBelongsToItsKey : Prop :=
  ∀ (s t u : State) (i : Instr) (es : List HostEvent), (i = .ksInit 8 ∨ i = .ksLoad 8) →
    exec i s = .next t → (∀ e ∈ es, e.KeepsKey) → runEvents es t = .next u →
    u.ksl = true ∧ ScheduledFrom s.key u

/-! ### The Feistel engine -/

/-- R144, R143, and the block function of R138 to R140 spelled out: IP, the split, sixteen rounds
`(L, R) := (R, L XOR F(R, RK[n]))` with RK[1] to RK[16] in order, the final swap, FP. NotReady otherwise. What
F is, is `SBoxRowAndColumn`. -/
def Obligations.DesEncTransformsBlock : Prop :=
  ∀ s : State,
    (s.ksl = true → s.ksrnd = 16 → ∃ l r : Nat → Word,
      l 0 = desSlice (permute ipTable s.blk) 1 32 ∧
      r 0 = desSlice (permute ipTable s.blk) 33 32 ∧
      (∀ n : Fin 16, l (n.val + 1) = r n.val ∧ r (n.val + 1) = l n.val ^^^ feistelF (r n.val) s.rk[n]) ∧
      desBlock s.blk (List.ofFn fun i : Fin 16 => s.rk[i]) = permute fpTable (r 16 ++ l 16) ∧
      exec .desEnc s = .next { s with blk := permute fpTable (r 16 ++ l 16), err := 0 }) ∧
    (s.ksl = false ∨ s.ksrnd ≠ 16 → exec .desEnc s = .next { s with err := 2 })

/-- R145, R143, with the rounds spelled out: round `n` of DES.DEC uses `RK[17 - n]`. -/
def Obligations.DesDecUsesKeysInReverse : Prop :=
  ∀ s : State,
    (s.ksl = true → s.ksrnd = 16 → ∃ l r : Nat → Word,
      l 0 = desSlice (permute ipTable s.blk) 1 32 ∧
      r 0 = desSlice (permute ipTable s.blk) 33 32 ∧
      (∀ n : Fin 16, l (n.val + 1) = r n.val ∧
        r (n.val + 1) = l n.val ^^^ feistelF (r n.val) s.rk[15 - n.val]) ∧
      desBlock s.blk (List.ofFn fun i : Fin 16 => s.rk[15 - i.val]) = permute fpTable (r 16 ++ l 16) ∧
      exec .desDec s = .next { s with blk := permute fpTable (r 16 ++ l 16), err := 0 }) ∧
    (s.ksl = false ∨ s.ksrnd ≠ 16 → exec .desDec s = .next { s with err := 2 })

/-- R142: for every block and every sixteen keys, the reversed keys undo the block function. -/
def Obligations.ReversedKeysUndoTheBlockFunction : Prop :=
  ∀ (v : Block) (keys : List RoundKey), keys.length = 16 →
    desBlock (desBlock v keys) keys.reverse = v

/-- R146: DES.DEC after DES.ENC, or DES.ENC after DES.DEC, restores BLK and leaves ERR 0, whatever events
come between them that change neither BLK nor the schedule; with none between, nothing else changes. -/
def Obligations.DecryptAfterEncryptRestoresBlock : Prop :=
  ∀ s : State, s.ksv = true →
    execSeq [.desEnc, .desDec] s = .next { s with err := 0 } ∧
    execSeq [.desDec, .desEnc] s = .next { s with err := 0 } ∧
    ∀ (i j : Instr) (es : List HostEvent), (i = .desEnc ∧ j = .desDec) ∨ (i = .desDec ∧ j = .desEnc) →
      (∀ e ∈ es, e.KeepsBlockAndKey) →
      ∃ t u v, exec i s = .next t ∧ runEvents es t = .next u ∧ exec j u = .next v ∧
        v.blk = s.blk ∧ v.err = 0 ∧ v = { u with blk := s.blk, err := 0 }

/-- R132's check: FP is the inverse of IP, by index and by bits. -/
def Obligations.FinalPermutationUndoesInitial : Prop :=
  (∀ (j p : Nat), 1 ≤ j → j ≤ 64 → ipTable.toList[j - 1]? = some p → fpTable.toList[p - 1]? = some j) ∧
  (∀ (j p : Nat), 1 ≤ j → j ≤ 64 → fpTable.toList[j - 1]? = some p → ipTable.toList[p - 1]? = some j) ∧
  ∀ v : Block, permute fpTable (permute ipTable v) = v

/-- R147: inverting every bit of key and input inverts every bit of DES.ENC's output. -/
def Obligations.DesComplementLaw : Prop :=
  ∀ (k v : Block),
    desBlock (~~~v) (scheduleOf (~~~k)).toList = ~~~(desBlock v (scheduleOf k).toList)

/-- R136, R137: row and column of an S-box lookup; and F is P of the eight lookups, group 1 leftmost and
through the first box, of E(R) XOR K. -/
def Obligations.SBoxRowAndColumn : Prop :=
  (∀ (box : SBox) (g : BitVec 6),
    ∃ (row : Fin 4) (col : Fin 16),
      row.val = 2 * (desBit g 1).toNat + (desBit g 6).toNat ∧
      col.val = 8 * (desBit g 2).toNat + 4 * (desBit g 3).toNat + 2 * (desBit g 4).toNat
        + (desBit g 5).toNat ∧
      sBoxLookup box g = box[row][col]) ∧
  ∀ (r : Word) (k : RoundKey), ∃ (x : BitVec 48) (so : Word),
    x = permute eTable r ^^^ k ∧
    (∀ (i : Fin 8) (box : SBox),
      [sBox1, sBox2, sBox3, sBox4, sBox5, sBox6, sBox7, sBox8][i]? = some box →
        desSlice so (4 * i.val + 1) 4 = sBoxLookup box (desSlice x (6 * i.val + 1) 6)) ∧
    feistelF r k = permute pTable so

/-! ### The SHA-1 unit -/

/-- R169. -/
def Obligations.ShaInitSetsDigest : Prop :=
  ∀ s : State, exec .shaInit s = .next { s with
    h := #v[0x67452301, 0xEFCDAB89, 0x98BADCFE, 0x10325476, 0xC3D2E1F0], shv := true, err := 0 }

/-- R170, R171, and the compression function of R162, R163, R166 and R167 spelled out: SHA.BLOCK runs the
eighty rounds over the message schedule of MSG from H and adds the result back into H, word by word. NotReady
without SHA.INIT. What the schedule is, is `MessageScheduleRecurrence`. -/
def Obligations.ShaBlockCompresses : Prop :=
  ∀ s : State,
    (s.shv = false → exec .shaBlock s = .next { s with err := 2 }) ∧
    (s.shv = true → ∃ x : Nat → Working,
      x 0 = ⟨s.h[0], s.h[1], s.h[2], s.h[3], s.h[4]⟩ ∧
      (∀ t, t < 80 → ∃ f k w : Word,
        (messageSchedule s.msg)[t]? = some w ∧
        (t ≤ 19 → f = ((x t).b &&& (x t).c) ||| (~~~(x t).b &&& (x t).d) ∧ k = 0x5A827999) ∧
        (20 ≤ t → t ≤ 39 → f = (x t).b ^^^ (x t).c ^^^ (x t).d ∧ k = 0x6ED9EBA1) ∧
        (40 ≤ t → t ≤ 59 →
          f = ((x t).b &&& (x t).c) ||| ((x t).b &&& (x t).d) ||| ((x t).c &&& (x t).d) ∧
          k = 0x8F1BBCDC) ∧
        (60 ≤ t → f = (x t).b ^^^ (x t).c ^^^ (x t).d ∧ k = 0xCA62C1D6) ∧
        (x (t + 1)).a = rotl (x t).a 5 + f + (x t).e + k + w ∧
        (x (t + 1)).b = (x t).a ∧
        (x (t + 1)).c = rotl (x t).b 30 ∧
        (x (t + 1)).d = (x t).c ∧
        (x (t + 1)).e = (x t).d) ∧
      shaCompress s.h s.msg = #v[s.h[0] + (x 80).a, s.h[1] + (x 80).b, s.h[2] + (x 80).c,
        s.h[3] + (x 80).d, s.h[4] + (x 80).e] ∧
      exec .shaBlock s = .next { s with h := shaCompress s.h s.msg, err := 0 })

/-- R164: the message schedule. -/
def Obligations.MessageScheduleRecurrence : Prop :=
  ∀ m : Vector Word 16,
    (messageSchedule m).length = 80 ∧
    (∀ i : Fin 16, (messageSchedule m)[i.val]? = some m[i]) ∧
    ∀ i, 16 ≤ i → i < 80 → ∃ a b c d : Word,
      (messageSchedule m)[i - 3]? = some a ∧ (messageSchedule m)[i - 8]? = some b ∧
      (messageSchedule m)[i - 14]? = some c ∧ (messageSchedule m)[i - 16]? = some d ∧
      (messageSchedule m)[i]? = some (rotl (a ^^^ b ^^^ c ^^^ d) 1)

/-- R172: the digest of N chunks is H after SHA.INIT and N SHA.BLOCKs, each after its sixteen writes; the
registers of the other engines are untouched. -/
def Obligations.DigestChainsOverChunks : Prop :=
  ∀ (s : State) (chunks : List (Vector Word 16)),
    ∃ t, runEvents (.command .shaInit :: chunks.flatMap chunkRun) s = .next t ∧
      t.h = chunks.foldl shaCompress shaInitial ∧ t.shv = true ∧ t.err = 0 ∧
      t.msg = chunks.getLastD s.msg ∧
      t = { s with h := t.h, msg := t.msg, shv := true, err := 0, replies := t.replies }

/-! ### The RSA units -/

/-- R193, R192. -/
def Obligations.RsaMulExactResidue : Prop :=
  ∀ s : State,
    (s.modn = 0 → exec .rsaMul s = .next { s with err := 4 }) ∧
    (s.modn ≠ 0 → exec .rsaMul s = .next { s with res := (s.opa * s.opb) % s.modn, err := 0 })

/-- R196, R195, R192: the micro-sequence of R197 gives the exact power. -/
def Obligations.RsaExpIsModularPower : Prop :=
  ∀ s : State,
    (s.modn = 0 → exec .rsaExp s = .next { s with err := 4 }) ∧
    (s.modn ≠ 0 → exec .rsaExp s = .next { s with res := s.opa ^ s.expo % s.modn, err := 0 })

/-- R194, R198: the product is symmetric in its factors, every result is below the modulus, and reducing the
base first changes no result. -/
def Obligations.RsaResultsAreResidues : Prop :=
  ∀ s : State, s.modn ≠ 0 →
    (∃ t u, exec .rsaMul s = .next t ∧ exec .rsaMul { s with opa := s.opb, opb := s.opa } = .next u ∧
      t.res = u.res ∧ t.res < s.modn) ∧
    (∃ t u, exec .rsaExp s = .next t ∧ exec .rsaExp { s with opa := s.opa % s.modn } = .next u ∧
      t.res = u.res ∧ t.res < s.modn)

/-- R199: with MODN a product of two distinct primes and exponents inverse modulo (p-1)(q-1), RSA.EXP with
one exponent and then with the other restores every message below MODN. -/
def Obligations.RsaExponentsUndoEachOther : Prop :=
  ∀ (s : State) (p q e d m : Nat), p.Prime → q.Prime → p ≠ q →
    e * d % ((p - 1) * (q - 1)) = 1 → m < p * q →
    ∃ t u, exec .rsaExp { s with opa := m, expo := e, modn := p * q } = .next t ∧
      exec .rsaExp { t with opa := t.res, expo := d } = .next u ∧ u.res = m

/-- R7, R191: no rule truncates, for any finite NBITS: commands keep the RSA registers within it. (SYS.RESET
leaves free values, which a register's width bounds by itself.) -/
def Obligations.OperandsStayBelowNbits : Prop :=
  ∀ (n : Nat) (i : Instr) (s t : State), i ≠ .sysReset → FitsNbits n s → exec i s = .next t →
    FitsNbits n t

/-! ### The whole machine -/

/-- R44, R114: every step keeps the invariants, from every state that meets them. -/
def Obligations.InvariantKeptByStep : Prop :=
  ∀ s t : State, Inv s → step s = .next t → Inv t

/-- R43, R44: the invariants hold after reset whatever the data registers hold, and STATUS reads 0. That
`State.reset` has zeros there is the model's choice (log 2) and is not used. -/
def Obligations.ResetStateMeetsInvariants : Prop :=
  ∀ data : DataRegs, Inv (State.resetWith data) ∧ (State.resetWith data).status = 0 ∧
    exec .desEnc (State.resetWith data) = .next { State.resetWith data with err := 2 } ∧
    exec .shaBlock (State.resetWith data) = .next { State.resetWith data with err := 2 } ∧
    exec .ksStep (State.resetWith data) = .next { State.resetWith data with err := 2 }

/-- R60, R312: from every state that meets the invariants, every event completes: no fault, no refusal. -/
def Obligations.EveryEventCompletes : Prop :=
  ∀ s : State, Inv s → SafeStep s

/-- R214: the registers a command does not list under "writes" are unchanged, and on an error all but ERR
are. The host's queue and answers
are the model's own fields and no command touches them. -/
def Obligations.CommandsWriteOnlyListedRegisters : Prop :=
  ∀ (i : Instr) (s t : State), exec i s = .next t →
    t.pending = s.pending ∧ t.replies = s.replies ∧
    (t.err ≠ 0 → t = { s with err := t.err }) ∧
    (i ≠ .sysReset →
      t.key = s.key ∧ t.msg = s.msg ∧ t.opa = s.opa ∧ t.opb = s.opb ∧ t.expo = s.expo ∧
      t.modn = s.modn ∧ t.freeCount = s.freeCount ∧
      (i ≠ .desEnc → i ≠ .desDec → t.blk = s.blk) ∧
      (i ≠ .shaInit → i ≠ .shaBlock → t.h = s.h) ∧
      (i ≠ .shaInit → t.shv = s.shv) ∧
      (i ≠ .rsaMul → i ≠ .rsaExp → t.res = s.res) ∧
      ((∀ klen, i ≠ .ksInit klen) → (∀ klen, i ≠ .ksLoad klen) →
        t.ksl = s.ksl ∧ (i ≠ .ksStep → t.c = s.c ∧ t.d = s.d ∧ t.ksrnd = s.ksrnd)) ∧
      ((∀ klen, i ≠ .ksLoad klen) →
        ∀ j : Fin 16, i ≠ .ksStep ∨ j.val ≠ s.ksrnd.toNat → t.rk[j] = s.rk[j]))

/-- R214, R323: what a command of one engine does to that engine's registers depends on those registers
alone. -/
def Obligations.EnginesDoNotInterfere : Prop :=
  ∀ (i : Instr) (g : Engine) (s s' t : State), engineOf i = some g → g.Agree s s' →
    exec i s = .next t → ∃ t', exec i s' = .next t' ∧ g.Agree t t' ∧ t'.err = t.err

/-- R323: commands of two different engines may be issued in either order; the registers end the same, but
for ERR, which is each command's own. -/
def Obligations.EnginesCommute : Prop :=
  ∀ (i j : Instr) (g h : Engine) (s a b : State), engineOf i = some g → engineOf j = some h → g ≠ h →
    exec i s = .next a → exec j a = .next b →
    ∃ c d, exec j s = .next c ∧ exec i c = .next d ∧
      { d with err := 0 } = { b with err := 0 } ∧ c.err = b.err ∧ d.err = a.err

/-! ### The host-level operations -/

/-- R223: the padding, its length, and the padded length. -/
def Obligations.DesPaddingShape : Prop :=
  ∀ m : List Byte, ∃ p : Nat, p = 8 - m.length % 8 ∧ 1 ≤ p ∧ p ≤ 8 ∧
    desPad m = m ++ List.replicate p (BitVec.ofNat 8 p) ∧
    (desPad m).length = 8 * (m.length / 8 + 1)

/-- R229: unpadding undoes padding, and fails exactly on a last byte outside 1..8 or unequal pad bytes. -/
def Obligations.UnpaddingUndoesPadding : Prop :=
  (∀ m : List Byte, desUnpad (desPad m) = some m) ∧
  ∀ (pm : List Byte) (last : Byte), pm.getLast? = some last → pm.length % 8 = 0 →
    (desUnpad pm = none ↔
      (last.toNat < 1 ∨ 8 < last.toNat ∨ ∃ b ∈ pm.drop (pm.length - last.toNat), b ≠ last)) ∧
    (desUnpad pm ≠ none → desUnpad pm = some (pm.take (pm.length - last.toNat)))

/-- R231, R226, C7: DES_NEW with an 8-byte key, DES_ENCRYPT, DES_DECRYPT: the plaintext comes back as the text
its bytes decode to, or DecodeError if they are no text; the hex text has the stated length. -/
def Obligations.DesEncryptDecryptRoundTrip : Prop :=
  ∀ (enc : TextEnc) (key : List Byte) (plaintext : Message) (s : State), key.length = 8 →
    ∃ (s1 s2 s3 : State) (hex : Text),
      desNew key s = .next (s1, .ok ()) ∧
      desEncrypt enc plaintext s1 = .next (s2, hex) ∧
      hex.length = 16 * ((plaintext.toBytes enc).length / 8 + 1) ∧
      desDecrypt enc hex s2 = .next (s3,
        match enc.decode (plaintext.toBytes enc) with
        | some t => .ok t
        | none => .error .decodeError)

/-- R240: the padded message, its length and its number of chunks. -/
def Obligations.ShaPaddingShape : Prop :=
  ∀ m : List Byte, ∃ z : Nat,
    shaPad m = m ++ [0x80] ++ List.replicate z 0 ++ natToBytes 8 (8 * m.length) ∧
    (m.length + 1 + z) % 64 = 56 ∧
    (∀ z', (m.length + 1 + z') % 64 = 56 → z ≤ z') ∧
    (shaPad m).length = 64 * ((m.length + 8) / 64 + 1) ∧
    (pieces 64 (shaPad m)).length = (m.length + 8) / 64 + 1

/-- R241, R244: SHA1_HASH is a function of the message bytes: whatever the CORE held before, the answer is
the chain of compressions from HINIT over the padded message, in hex. -/
def Obligations.HashDependsOnMessageOnly : Prop :=
  ∀ (m : List Byte) (s : State), m.length < 2 ^ 61 →
    ∃ t, shaHashBytes m s = .next (t,
      hex40 ((pieces 64 (shaPad m)).foldl
        (fun h ch => shaCompress h (Vector.ofFn fun i => chunkWord ch i.val)) shaInitial).toList)

/-- R251 to R255, U7: a generated pair has as modulus the product of two different odd numbers of the stated
size (probable primes: nothing is claimed of their primality) and exponents inverse modulo phi, and
InverseNotFound is never reached, for every sequence of draws. -/
def Obligations.GeneratedExponentsAreInverse : Prop :=
  ∀ (bitLength : Nat) (draws : List Nat), 16 ≤ bitLength →
    keyGenRun bitLength draws ≠ .inverseNotFound ∧
    ∀ pair, keyGenRun bitLength draws = .finished pair →
      ∃ p q e d : Nat,
        pair = { pub := ⟨e, p * q⟩, prv := ⟨d, p * q⟩ } ∧ p ≠ q ∧
        p % 2 = 1 ∧ 2 ^ (bitLength / 2 - 1) < p ∧ p < 2 ^ (bitLength / 2) ∧
        q % 2 = 1 ∧ 2 ^ (bitLength / 2 - 1) < q ∧ q < 2 ^ (bitLength / 2) ∧
        Nat.gcd e ((p - 1) * (q - 1)) = 1 ∧
        (e = 65537 ∨ (e % 2 = 1 ∧ 3 ≤ e ∧ e < (p - 1) * (q - 1) ∧
          Nat.gcd 65537 ((p - 1) * (q - 1)) ≠ 1)) ∧
        d < (p - 1) * (q - 1) ∧ e * d % ((p - 1) * (q - 1)) = 1

/-- R260, R257: RSA_ENCNUM: NoKeyError first, MessageTooLarge exactly when `m >= n`, else `m^e mod n`. -/
def Obligations.EncNumChecksTheRange : Prop :=
  ∀ (m : Nat) (given : Option RsaKey) (cipher : PkCipher) (s : State),
    (given = none → cipher.pub = none → rsaEncNum m given cipher s = .next (s, .error .noKeyError)) ∧
    ∀ k, (given = some k ∨ (given = none ∧ cipher.pub = some k)) →
      (k.modulus ≤ m → rsaEncNum m given cipher s = .next (s, .error .messageTooLarge)) ∧
      (m < k.modulus → ∃ answers, rsaEncNum m given cipher s =
        .next ({ s with
          opa := m, expo := k.exponent, modn := k.modulus, res := m ^ k.exponent % k.modulus
          err := 0, replies := answers }, .ok (m ^ k.exponent % k.modulus)))

/-- R199, R257, R258, R259: with the modulus a product of two distinct primes and exponents inverse modulo
(p-1)(q-1), RSA_ENCRYPT and then RSA_DECRYPT give back the text, when every byte is below the modulus; each key
may be given as an argument or be the stored one. -/
def Obligations.RsaEncryptDecryptRoundTrip : Prop :=
  ∀ (enc : TextEnc) (text : Message) (pub prv : Option RsaKey) (cipher : PkCipher) (s : State)
    (p q e d : Nat),
    p.Prime → q.Prime → p ≠ q → e * d % ((p - 1) * (q - 1)) = 1 →
    (pub = some ⟨e, p * q⟩ ∨ (pub = none ∧ cipher.pub = some ⟨e, p * q⟩)) →
    (prv = some ⟨d, p * q⟩ ∨ (prv = none ∧ cipher.prv = some ⟨d, p * q⟩)) →
    (∀ b ∈ text.toBytes enc, b.toNat < p * q) →
    ∃ (s1 s2 : State) (ciphers : List Nat),
      rsaEncrypt enc text pub cipher s = .next (s1, .ok ciphers) ∧
      ciphers = (text.toBytes enc).map (fun b => b.toNat ^ e % (p * q)) ∧
      rsaDecrypt enc ciphers prv cipher s1 = .next (s2,
        match enc.decode (text.toBytes enc) with
        | some t => .ok t
        | none => .error .decodeError)

/-! ### The notation the rules above are written in -/

/-- R12 to R15: the bits of the DES view, of a slice, of a concatenation, of a permutation and of a rotation.
The statements about DES and SHA-1 use these functions and say nothing of what they are. -/
def Obligations.BitNotationMeaning : Prop :=
  (∀ (n : Nat) (v : BitVec n) (i : Nat), 1 ≤ i → i ≤ n → desBit v i = v.toNat.testBit (n - i)) ∧
  (∀ (n : Nat) (v : BitVec n) (i m k : Nat), 1 ≤ i → i + m ≤ n + 1 → 1 ≤ k → k ≤ m →
    desBit (desSlice v i m) k = desBit v (i + k - 1)) ∧
  (∀ (n m : Nat) (a : BitVec n) (b : BitVec m), (a ++ b).toNat = a.toNat * 2 ^ m + b.toNat) ∧
  (∀ (n m : Nat) (table : Vector Nat m) (v : BitVec n) (j : Nat) (p : Nat), 1 ≤ j → j ≤ m →
    table.toList[j - 1]? = some p → 1 ≤ p → p ≤ n → desBit (permute table v) j = desBit v p) ∧
  ∀ (n : Nat) (v : BitVec n) (shift i : Nat), shift < n → 1 ≤ i → i ≤ n →
    desBit (rotl v shift) i = desBit v ((i - 1 + shift) % n + 1)
end

