-- ==== Sys2Proof/Laws/Bits.lean ====
section
/-! SUPPORT. The DES view, bit by bit: what `permute`, `rotl` and slices do to one bit, and to complements. -/

namespace Sys2Proof.Machine

/-- R14: bit `j` of the result is bit `T[j]` of the argument. -/
theorem getMsbD_permute {n m : Nat} (table : Vector Nat m) (v : BitVec n) {j : Nat} (h : j < m) :
    (permute table v).getMsbD j = desBit v table[j] := by
  simp [permute, BitVec.getMsbD_ofBoolListBE, h]

/-- R15: bit `i` of the rotation is bit `i + s`, cyclically. -/
theorem getMsbD_rotl {n : Nat} (v : BitVec n) (s i : Nat) (h : i < n) :
    (rotl v s).getMsbD i = v.getMsbD ((s + i) % n) := by
  simp [rotl, BitVec.getMsbD_rotateLeft, h]

/-- R15: one rotation after another rotates by the sum. -/
theorem rotl_rotl {n : Nat} (v : BitVec n) (s t : Nat) : rotl (rotl v s) t = rotl v ((s + t) % n) := by
  rcases Nat.eq_zero_or_pos n with rfl | hn
  · exact Subsingleton.elim _ _
  · refine BitVec.eq_of_getMsbD_eq fun i hi => ?_
    rw [getMsbD_rotl _ _ _ hi, getMsbD_rotl _ _ _ (Nat.mod_lt _ hn), getMsbD_rotl _ _ _ hi]
    congr 1
    rw [Nat.add_mod_mod, Nat.mod_add_mod, Nat.add_assoc]

theorem rotl_zero {n : Nat} (v : BitVec n) : rotl v 0 = v := by
  refine BitVec.eq_of_getMsbD_eq fun i hi => ?_
  rw [getMsbD_rotl _ _ _ hi, Nat.zero_add, Nat.mod_eq_of_lt hi]

theorem desBit_not {n : Nat} (v : BitVec n) {i : Nat} (h : i - 1 < n) : desBit (~~~v) i = !desBit v i := by
  simp [desBit, BitVec.getMsbD_not, h]

/-- A selection moves bits, so it commutes with complement where every index names a bit. -/
theorem permute_not {n m : Nat} (table : Vector Nat m) (v : BitVec n)
    (h : ∀ j, (hj : j < m) → table[j] - 1 < n) : permute table (~~~v) = ~~~(permute table v) := by
  refine BitVec.eq_of_getMsbD_eq fun j hj => ?_
  rw [BitVec.getMsbD_not, getMsbD_permute _ _ hj, getMsbD_permute _ _ hj, desBit_not _ (h j hj)]
  simp [hj]

theorem rotl_not {n : Nat} (v : BitVec n) (s : Nat) : rotl (~~~v) s = ~~~(rotl v s) := by
  refine BitVec.eq_of_getMsbD_eq fun i hi => ?_
  rw [getMsbD_rotl _ _ _ hi, BitVec.getMsbD_not, BitVec.getMsbD_not, getMsbD_rotl _ _ _ hi]
  simp [hi, Nat.mod_lt _ (Nat.zero_lt_of_lt hi)]

theorem getMsbD_desSlice {n : Nat} (v : BitVec n) (i m : Nat) {j : Nat} (hj : j < m) (hi : 1 ≤ i)
    (h : i + m ≤ n + 1) : (desSlice v i m).getMsbD j = v.getMsbD (i - 1 + j) := by
  simp only [desSlice, BitVec.getMsbD_eq_getLsbD, BitVec.getLsbD_extractLsb']
  have h1 : m - 1 - j < m := by omega
  have h2 : i - 1 + j < n := by omega
  simp only [hj, h1, h2, decide_true, Bool.true_and]
  congr 1
  omega

theorem desSlice_not {n : Nat} (v : BitVec n) (i m : Nat) (hi : 1 ≤ i) (h : i + m ≤ n + 1) :
    desSlice (~~~v) i m = ~~~(desSlice v i m) := by
  refine BitVec.eq_of_getMsbD_eq fun j hj => ?_
  rw [BitVec.getMsbD_not, getMsbD_desSlice _ _ _ hj hi h, getMsbD_desSlice _ _ _ hj hi h,
    BitVec.getMsbD_not]
  have : i - 1 + j < n := by omega
  simp [hj, this]

end Sys2Proof.Machine
end

