-- ==== Sys2Proof/Laws/State.lean ====
section
/-! SUPPORT. One lemma per field and named update of State, true by rfl; later proofs cite these and unfold no update. -/

namespace Sys2Proof.Machine

/-! `State.setErr` -/

@[simp] theorem State.setErr_key (e : BitVec 4) (s : State) : (s.setErr e).key = s.key := rfl
@[simp] theorem State.setErr_c (e : BitVec 4) (s : State) : (s.setErr e).c = s.c := rfl
@[simp] theorem State.setErr_d (e : BitVec 4) (s : State) : (s.setErr e).d = s.d := rfl
@[simp] theorem State.setErr_rk (e : BitVec 4) (s : State) : (s.setErr e).rk = s.rk := rfl
@[simp] theorem State.setErr_blk (e : BitVec 4) (s : State) : (s.setErr e).blk = s.blk := rfl
@[simp] theorem State.setErr_h (e : BitVec 4) (s : State) : (s.setErr e).h = s.h := rfl
@[simp] theorem State.setErr_msg (e : BitVec 4) (s : State) : (s.setErr e).msg = s.msg := rfl
@[simp] theorem State.setErr_opa (e : BitVec 4) (s : State) : (s.setErr e).opa = s.opa := rfl
@[simp] theorem State.setErr_opb (e : BitVec 4) (s : State) : (s.setErr e).opb = s.opb := rfl
@[simp] theorem State.setErr_expo (e : BitVec 4) (s : State) : (s.setErr e).expo = s.expo := rfl
@[simp] theorem State.setErr_modn (e : BitVec 4) (s : State) : (s.setErr e).modn = s.modn := rfl
@[simp] theorem State.setErr_res (e : BitVec 4) (s : State) : (s.setErr e).res = s.res := rfl
@[simp] theorem State.setErr_err (e : BitVec 4) (s : State) : (s.setErr e).err = e := rfl
@[simp] theorem State.setErr_ksl (e : BitVec 4) (s : State) : (s.setErr e).ksl = s.ksl := rfl
@[simp] theorem State.setErr_ksrnd (e : BitVec 4) (s : State) : (s.setErr e).ksrnd = s.ksrnd := rfl
@[simp] theorem State.setErr_shv (e : BitVec 4) (s : State) : (s.setErr e).shv = s.shv := rfl
@[simp] theorem State.setErr_pending (e : BitVec 4) (s : State) : (s.setErr e).pending = s.pending := rfl
@[simp] theorem State.setErr_replies (e : BitVec 4) (s : State) : (s.setErr e).replies = s.replies := rfl
@[simp] theorem State.setErr_freeCount (e : BitVec 4) (s : State) : (s.setErr e).freeCount = s.freeCount := rfl

/-! `State.answer` -/

@[simp] theorem State.answer_key (r : Reply) (s : State) : (s.answer r).key = s.key := rfl
@[simp] theorem State.answer_c (r : Reply) (s : State) : (s.answer r).c = s.c := rfl
@[simp] theorem State.answer_d (r : Reply) (s : State) : (s.answer r).d = s.d := rfl
@[simp] theorem State.answer_rk (r : Reply) (s : State) : (s.answer r).rk = s.rk := rfl
@[simp] theorem State.answer_blk (r : Reply) (s : State) : (s.answer r).blk = s.blk := rfl
@[simp] theorem State.answer_h (r : Reply) (s : State) : (s.answer r).h = s.h := rfl
@[simp] theorem State.answer_msg (r : Reply) (s : State) : (s.answer r).msg = s.msg := rfl
@[simp] theorem State.answer_opa (r : Reply) (s : State) : (s.answer r).opa = s.opa := rfl
@[simp] theorem State.answer_opb (r : Reply) (s : State) : (s.answer r).opb = s.opb := rfl
@[simp] theorem State.answer_expo (r : Reply) (s : State) : (s.answer r).expo = s.expo := rfl
@[simp] theorem State.answer_modn (r : Reply) (s : State) : (s.answer r).modn = s.modn := rfl
@[simp] theorem State.answer_res (r : Reply) (s : State) : (s.answer r).res = s.res := rfl
@[simp] theorem State.answer_err (r : Reply) (s : State) : (s.answer r).err = s.err := rfl
@[simp] theorem State.answer_ksl (r : Reply) (s : State) : (s.answer r).ksl = s.ksl := rfl
@[simp] theorem State.answer_ksrnd (r : Reply) (s : State) : (s.answer r).ksrnd = s.ksrnd := rfl
@[simp] theorem State.answer_shv (r : Reply) (s : State) : (s.answer r).shv = s.shv := rfl
@[simp] theorem State.answer_pending (r : Reply) (s : State) : (s.answer r).pending = s.pending := rfl
@[simp] theorem State.answer_replies (r : Reply) (s : State) : (s.answer r).replies = r :: s.replies := rfl
@[simp] theorem State.answer_freeCount (r : Reply) (s : State) : (s.answer r).freeCount = s.freeCount := rfl

/-! `State.setPending` -/

@[simp] theorem State.setPending_key (es : List HostEvent) (s : State) : (s.setPending es).key = s.key := rfl
@[simp] theorem State.setPending_c (es : List HostEvent) (s : State) : (s.setPending es).c = s.c := rfl
@[simp] theorem State.setPending_d (es : List HostEvent) (s : State) : (s.setPending es).d = s.d := rfl
@[simp] theorem State.setPending_rk (es : List HostEvent) (s : State) : (s.setPending es).rk = s.rk := rfl
@[simp] theorem State.setPending_blk (es : List HostEvent) (s : State) : (s.setPending es).blk = s.blk := rfl
@[simp] theorem State.setPending_h (es : List HostEvent) (s : State) : (s.setPending es).h = s.h := rfl
@[simp] theorem State.setPending_msg (es : List HostEvent) (s : State) : (s.setPending es).msg = s.msg := rfl
@[simp] theorem State.setPending_opa (es : List HostEvent) (s : State) : (s.setPending es).opa = s.opa := rfl
@[simp] theorem State.setPending_opb (es : List HostEvent) (s : State) : (s.setPending es).opb = s.opb := rfl
@[simp] theorem State.setPending_expo (es : List HostEvent) (s : State) : (s.setPending es).expo = s.expo := rfl
@[simp] theorem State.setPending_modn (es : List HostEvent) (s : State) : (s.setPending es).modn = s.modn := rfl
@[simp] theorem State.setPending_res (es : List HostEvent) (s : State) : (s.setPending es).res = s.res := rfl
@[simp] theorem State.setPending_err (es : List HostEvent) (s : State) : (s.setPending es).err = s.err := rfl
@[simp] theorem State.setPending_ksl (es : List HostEvent) (s : State) : (s.setPending es).ksl = s.ksl := rfl
@[simp] theorem State.setPending_ksrnd (es : List HostEvent) (s : State) : (s.setPending es).ksrnd = s.ksrnd := rfl
@[simp] theorem State.setPending_shv (es : List HostEvent) (s : State) : (s.setPending es).shv = s.shv := rfl
@[simp] theorem State.setPending_pending (es : List HostEvent) (s : State) : (s.setPending es).pending = es := rfl
@[simp] theorem State.setPending_replies (es : List HostEvent) (s : State) : (s.setPending es).replies = s.replies := rfl
@[simp] theorem State.setPending_freeCount (es : List HostEvent) (s : State) : (s.setPending es).freeCount = s.freeCount := rfl

/-! `resetCore` -/

@[simp] theorem resetCore_key (s : State) : (resetCore s).key = (DataRegs.unspecified s.freeCount s.toDataRegs).key := rfl
@[simp] theorem resetCore_c (s : State) : (resetCore s).c = (DataRegs.unspecified s.freeCount s.toDataRegs).c := rfl
@[simp] theorem resetCore_d (s : State) : (resetCore s).d = (DataRegs.unspecified s.freeCount s.toDataRegs).d := rfl
@[simp] theorem resetCore_rk (s : State) : (resetCore s).rk = (DataRegs.unspecified s.freeCount s.toDataRegs).rk := rfl
@[simp] theorem resetCore_blk (s : State) : (resetCore s).blk = (DataRegs.unspecified s.freeCount s.toDataRegs).blk := rfl
@[simp] theorem resetCore_h (s : State) : (resetCore s).h = (DataRegs.unspecified s.freeCount s.toDataRegs).h := rfl
@[simp] theorem resetCore_msg (s : State) : (resetCore s).msg = (DataRegs.unspecified s.freeCount s.toDataRegs).msg := rfl
@[simp] theorem resetCore_opa (s : State) : (resetCore s).opa = (DataRegs.unspecified s.freeCount s.toDataRegs).opa := rfl
@[simp] theorem resetCore_opb (s : State) : (resetCore s).opb = (DataRegs.unspecified s.freeCount s.toDataRegs).opb := rfl
@[simp] theorem resetCore_expo (s : State) : (resetCore s).expo = (DataRegs.unspecified s.freeCount s.toDataRegs).expo := rfl
@[simp] theorem resetCore_modn (s : State) : (resetCore s).modn = (DataRegs.unspecified s.freeCount s.toDataRegs).modn := rfl
@[simp] theorem resetCore_res (s : State) : (resetCore s).res = (DataRegs.unspecified s.freeCount s.toDataRegs).res := rfl
@[simp] theorem resetCore_err (s : State) : (resetCore s).err = 0 := rfl
@[simp] theorem resetCore_ksl (s : State) : (resetCore s).ksl = false := rfl
@[simp] theorem resetCore_ksrnd (s : State) : (resetCore s).ksrnd = 0 := rfl
@[simp] theorem resetCore_shv (s : State) : (resetCore s).shv = false := rfl
@[simp] theorem resetCore_pending (s : State) : (resetCore s).pending = s.pending := rfl
@[simp] theorem resetCore_replies (s : State) : (resetCore s).replies = s.replies := rfl
@[simp] theorem resetCore_freeCount (s : State) : (resetCore s).freeCount = s.freeCount + 1 := rfl

/-! Updates of one field over another -/

@[simp] theorem State.setErr_setErr (e e' : BitVec 4) (s : State) : (s.setErr e).setErr e' = s.setErr e' := rfl
@[simp] theorem State.setPending_setPending (es es' : List HostEvent) (s : State) :
    (s.setPending es).setPending es' = s.setPending es' := rfl
theorem State.setErr_answer (e : BitVec 4) (r : Reply) (s : State) :
    (s.answer r).setErr e = (s.setErr e).answer r := rfl
theorem State.setErr_setPending (e : BitVec 4) (es : List HostEvent) (s : State) :
    (s.setPending es).setErr e = (s.setErr e).setPending es := rfl
theorem State.answer_setPending (r : Reply) (es : List HostEvent) (s : State) :
    (s.setPending es).answer r = (s.answer r).setPending es := rfl

/-! The derived flag and STATUS read only the flags -/

@[simp] theorem State.ksv_setErr (e : BitVec 4) (s : State) : (s.setErr e).ksv = s.ksv := rfl
@[simp] theorem State.ksv_answer (r : Reply) (s : State) : (s.answer r).ksv = s.ksv := rfl
@[simp] theorem State.ksv_setPending (es : List HostEvent) (s : State) : (s.setPending es).ksv = s.ksv := rfl
@[simp] theorem State.status_answer (r : Reply) (s : State) : (s.answer r).status = s.status := rfl
@[simp] theorem State.status_setPending (es : List HostEvent) (s : State) :
    (s.setPending es).status = s.status := rfl

theorem State.ksv_eq_true {s : State} : s.ksv = true ↔ s.ksl = true ∧ s.ksrnd = 16 := by
  simp [State.ksv]

theorem State.ksv_eq_false {s : State} : s.ksv = false ↔ s.ksl = false ∨ s.ksrnd ≠ 16 := by
  cases h : s.ksl <;> simp [State.ksv, h]

end Sys2Proof.Machine
end

