-- ==== Sys2Proof/Laws/Exec.lean ====
section
/-! SUPPORT. What each command can do, said once: later proofs cite these and unfold no meaning. -/

namespace Sys2Proof.Machine

@[simp] theorem raise_next (e : CmdError) (s : State) : raise e s = .next (s.setErr e.code) := rfl

@[simp] theorem complete_next (s : State) : complete s = .next (s.setErr 0) := rfl

@[simp] theorem keyLengthOk_iff (klen : Nat) : keyLengthOk klen = true ↔ klen = 8 := by
  simp [keyLengthOk, keyLength]

/-- What KS.INIT writes when it succeeds (R108). -/
def ksInitDone (s : State) : State :=
  { s with c := (permutedKey s.key).c, d := (permutedKey s.key).d, ksrnd := 0, ksl := true, err := 0 }

/-- What KS.LOAD writes when it succeeds (R112). -/
def ksLoadDone (s : State) : State :=
  { s with
    c := (halvesAfter s.key 16).c, d := (halvesAfter s.key 16).d
    rk := scheduleOf s.key, ksrnd := 16, ksl := true, err := 0 }

theorem exec_sysNop (s : State) : exec .sysNop s = .next (s.setErr 0) := rfl

theorem exec_sysReset (s : State) : exec .sysReset s = .next (resetCore s) := rfl

theorem exec_ksInit (s : State) : exec (.ksInit 8) s = .next (ksInitDone s) := rfl

theorem exec_ksLoad (s : State) : exec (.ksLoad 8) s = .next (ksLoadDone s) := rfl

theorem exec_ksInit_of_ne {klen : Nat} (h : klen ≠ 8) (s : State) :
    exec (.ksInit klen) s = .next (s.setErr 1) := by
  have hk : ¬ keyLengthOk klen = true := by simpa using h
  simp [exec, execKsInit, hk, CmdError.code]

theorem exec_ksLoad_of_ne {klen : Nat} (h : klen ≠ 8) (s : State) :
    exec (.ksLoad klen) s = .next (s.setErr 1) := by
  have hk : ¬ keyLengthOk klen = true := by simpa using h
  simp [exec, execKsLoad, hk, CmdError.code]

theorem exec_ksStep_notReady {s : State} (h : s.ksl = false) :
    exec .ksStep s = .next (s.setErr 2) := by
  simp [exec, execKsStep, h, CmdError.code]

theorem exec_ksStep_sequenceError {s : State} (h : s.ksl = true) (hr : s.ksrnd = 16) :
    exec .ksStep s = .next (s.setErr 3) := by
  simp [exec, execKsStep, h, hr, CmdError.code]

theorem exec_ksStep_derives {s : State} (i : Fin 16) (h : s.ksl = true) (hr : s.ksrnd.toNat = i.val) :
    exec .ksStep s = .next ((deriveRound i s).setErr 0) := by
  have h16 : ¬ s.ksrnd = 16#5 := by
    intro h'
    have := i.isLt
    rw [h'] at hr
    simp at hr
    omega
  have hlt : s.ksrnd.toNat < 16 := by omega
  have hi : (⟨s.ksrnd.toNat, hlt⟩ : Fin 16) = i := Fin.ext hr
  simp [exec, execKsStep, h, h16, hlt, hi]

theorem exec_ksStep_outOfRange {s : State} (h : s.ksl = true) (hr : 16 < s.ksrnd.toNat) :
    exec .ksStep s = .fault .roundCounterOutOfRange := by
  have h16 : ¬ s.ksrnd = 16#5 := by
    intro h'
    rw [h'] at hr
    simp at hr
  simp [exec, execKsStep, h, h16, Nat.not_lt.mpr (Nat.le_of_lt hr)]

theorem exec_desEnc {s : State} (h : s.ksv = true) :
    exec .desEnc s = .next { s with blk := desBlock s.blk s.rk.toList, err := 0 } := by
  simp [exec, execDesEnc, h, State.setErr]

theorem exec_desDec {s : State} (h : s.ksv = true) :
    exec .desDec s = .next { s with blk := desBlock s.blk s.rk.toList.reverse, err := 0 } := by
  simp [exec, execDesDec, h, State.setErr]

theorem exec_desEnc_notReady {s : State} (h : s.ksv = false) :
    exec .desEnc s = .next (s.setErr 2) := by
  simp [exec, execDesEnc, h, CmdError.code]

theorem exec_desDec_notReady {s : State} (h : s.ksv = false) :
    exec .desDec s = .next (s.setErr 2) := by
  simp [exec, execDesDec, h, CmdError.code]

theorem exec_shaInit (s : State) :
    exec .shaInit s = .next { s with h := shaInitial, shv := true, err := 0 } := rfl

theorem exec_shaBlock {s : State} (h : s.shv = true) :
    exec .shaBlock s = .next { s with h := shaCompress s.h s.msg, err := 0 } := by
  simp [exec, execShaBlock, h, State.setErr]

theorem exec_shaBlock_notReady {s : State} (h : s.shv = false) :
    exec .shaBlock s = .next (s.setErr 2) := by
  simp [exec, execShaBlock, h, CmdError.code]

theorem exec_rsaMul {s : State} (h : s.modn ≠ 0) :
    exec .rsaMul s = .next { s with res := modMul s.opa s.opb s.modn, err := 0 } := by
  simp [exec, execRsaMul, h, State.setErr]

theorem exec_rsaExp {s : State} (h : s.modn ≠ 0) :
    exec .rsaExp s = .next { s with res := powmod s.opa s.expo s.modn, err := 0 } := by
  simp [exec, execRsaExp, h, State.setErr]

theorem exec_rsaMul_modulusError {s : State} (h : s.modn = 0) :
    exec .rsaMul s = .next (s.setErr 4) := by
  simp [exec, execRsaMul, h, CmdError.code]

theorem exec_rsaExp_modulusError {s : State} (h : s.modn = 0) :
    exec .rsaExp s = .next (s.setErr 4) := by
  simp [exec, execRsaExp, h, CmdError.code]

/-- Everything a command can do when the machine goes on: raise one error (R272), or write what its rule
lists (R214). One case per command and outcome; each names its guard. -/
inductive Outcomes (s : State) : Instr → State → Prop where
  | sysNop : Outcomes s .sysNop (s.setErr 0)
  | sysReset : Outcomes s .sysReset (resetCore s)
  | ksInit : Outcomes s (.ksInit 8) (ksInitDone s)
  | ksInitBad (klen : Nat) (h : klen ≠ 8) : Outcomes s (.ksInit klen) (s.setErr 1)
  | ksLoad : Outcomes s (.ksLoad 8) (ksLoadDone s)
  | ksLoadBad (klen : Nat) (h : klen ≠ 8) : Outcomes s (.ksLoad klen) (s.setErr 1)
  | ksStepNotReady (h : s.ksl = false) : Outcomes s .ksStep (s.setErr 2)
  | ksStepFull (h : s.ksl = true) (hr : s.ksrnd = 16) : Outcomes s .ksStep (s.setErr 3)
  | ksStep (i : Fin 16) (h : s.ksl = true) (hr : s.ksrnd.toNat = i.val) :
      Outcomes s .ksStep ((deriveRound i s).setErr 0)
  | desEnc (h : s.ksv = true) :
      Outcomes s .desEnc { s with blk := desBlock s.blk s.rk.toList, err := 0 }
  | desEncNotReady (h : s.ksv = false) : Outcomes s .desEnc (s.setErr 2)
  | desDec (h : s.ksv = true) :
      Outcomes s .desDec { s with blk := desBlock s.blk s.rk.toList.reverse, err := 0 }
  | desDecNotReady (h : s.ksv = false) : Outcomes s .desDec (s.setErr 2)
  | shaInit : Outcomes s .shaInit { s with h := shaInitial, shv := true, err := 0 }
  | shaBlock (h : s.shv = true) :
      Outcomes s .shaBlock { s with h := shaCompress s.h s.msg, err := 0 }
  | shaBlockNotReady (h : s.shv = false) : Outcomes s .shaBlock (s.setErr 2)
  | rsaMul (h : s.modn ≠ 0) : Outcomes s .rsaMul { s with res := modMul s.opa s.opb s.modn, err := 0 }
  | rsaMulModulus (h : s.modn = 0) : Outcomes s .rsaMul (s.setErr 4)
  | rsaExp (h : s.modn ≠ 0) : Outcomes s .rsaExp { s with res := powmod s.opa s.expo s.modn, err := 0 }
  | rsaExpModulus (h : s.modn = 0) : Outcomes s .rsaExp (s.setErr 4)

/-- What a command that goes on did is one of its outcomes. -/
theorem exec_outcomes {i : Instr} {s t : State} (h : exec i s = .next t) : Outcomes s i t := by
  cases i with
  | sysNop => cases h; exact .sysNop
  | sysReset => cases h; exact .sysReset
  | ksInit klen =>
    by_cases hk : klen = 8
    · subst hk; cases h; exact .ksInit
    · rw [exec_ksInit_of_ne hk] at h; cases h; exact .ksInitBad _ hk
  | ksLoad klen =>
    by_cases hk : klen = 8
    · subst hk; cases h; exact .ksLoad
    · rw [exec_ksLoad_of_ne hk] at h; cases h; exact .ksLoadBad _ hk
  | ksStep =>
    cases hl : s.ksl with
    | false => rw [exec_ksStep_notReady hl] at h; cases h; exact .ksStepNotReady hl
    | true =>
      by_cases hr : s.ksrnd = 16
      · rw [exec_ksStep_sequenceError hl hr] at h; cases h; exact .ksStepFull hl hr
      · by_cases hlt : s.ksrnd.toNat < 16
        · rw [exec_ksStep_derives ⟨_, hlt⟩ hl rfl] at h; cases h; exact .ksStep ⟨_, hlt⟩ hl rfl
        · have hne : s.ksrnd.toNat ≠ 16 := fun h' => hr (BitVec.eq_of_toNat_eq (by simpa using h'))
          rw [exec_ksStep_outOfRange hl (by omega)] at h
          cases h
  | desEnc =>
    cases hv : s.ksv with
    | false => rw [exec_desEnc_notReady hv] at h; cases h; exact .desEncNotReady hv
    | true => rw [exec_desEnc hv] at h; cases h; exact .desEnc hv
  | desDec =>
    cases hv : s.ksv with
    | false => rw [exec_desDec_notReady hv] at h; cases h; exact .desDecNotReady hv
    | true => rw [exec_desDec hv] at h; cases h; exact .desDec hv
  | shaInit => cases h; exact .shaInit
  | shaBlock =>
    cases hv : s.shv with
    | false => rw [exec_shaBlock_notReady hv] at h; cases h; exact .shaBlockNotReady hv
    | true => rw [exec_shaBlock hv] at h; cases h; exact .shaBlock hv
  | rsaMul =>
    by_cases hm : s.modn = 0
    · rw [exec_rsaMul_modulusError hm] at h; cases h; exact .rsaMulModulus hm
    · rw [exec_rsaMul hm] at h; cases h; exact .rsaMul hm
  | rsaExp =>
    by_cases hm : s.modn = 0
    · rw [exec_rsaExp_modulusError hm] at h; cases h; exact .rsaExpModulus hm
    · rw [exec_rsaExp hm] at h; cases h; exact .rsaExp hm

/-- And conversely: each outcome is what the command answers. -/
theorem exec_of_outcomes {i : Instr} {s t : State} (h : Outcomes s i t) : exec i s = .next t := by
  cases h with
  | sysNop => rfl
  | sysReset => rfl
  | ksInit => rfl
  | ksInitBad klen h => exact exec_ksInit_of_ne h s
  | ksLoad => rfl
  | ksLoadBad klen h => exact exec_ksLoad_of_ne h s
  | ksStepNotReady h => exact exec_ksStep_notReady h
  | ksStepFull h hr => exact exec_ksStep_sequenceError h hr
  | ksStep i h hr => exact exec_ksStep_derives i h hr
  | desEnc h => exact exec_desEnc h
  | desEncNotReady h => exact exec_desEnc_notReady h
  | desDec h => exact exec_desDec h
  | desDecNotReady h => exact exec_desDec_notReady h
  | shaInit => rfl
  | shaBlock h => exact exec_shaBlock h
  | shaBlockNotReady h => exact exec_shaBlock_notReady h
  | rsaMul h => exact exec_rsaMul h
  | rsaMulModulus h => exact exec_rsaMul_modulusError h
  | rsaExp h => exact exec_rsaExp h
  | rsaExpModulus h => exact exec_rsaExp_modulusError h

/-- Only KS.STEP can stop, and only in a state no run reaches (log 7). -/
theorem exec_next_or_outOfRange (i : Instr) (s : State) :
    (∃ t, exec i s = .next t) ∨ (i = .ksStep ∧ s.ksl = true ∧ 16 < s.ksrnd.toNat) := by
  cases i with
  | sysNop => exact .inl ⟨_, rfl⟩
  | sysReset => exact .inl ⟨_, rfl⟩
  | ksInit klen =>
    by_cases hk : klen = 8
    · subst hk; exact .inl ⟨_, rfl⟩
    · exact .inl ⟨_, exec_ksInit_of_ne hk s⟩
  | ksLoad klen =>
    by_cases hk : klen = 8
    · subst hk; exact .inl ⟨_, rfl⟩
    · exact .inl ⟨_, exec_ksLoad_of_ne hk s⟩
  | ksStep =>
    cases hl : s.ksl with
    | false => exact .inl ⟨_, exec_ksStep_notReady hl⟩
    | true =>
      by_cases hr : s.ksrnd = 16
      · exact .inl ⟨_, exec_ksStep_sequenceError hl hr⟩
      · by_cases hlt : s.ksrnd.toNat < 16
        · exact .inl ⟨_, exec_ksStep_derives ⟨_, hlt⟩ hl rfl⟩
        · have hne : s.ksrnd.toNat ≠ 16 := fun h' => hr (BitVec.eq_of_toNat_eq (by simpa using h'))
          exact .inr ⟨rfl, rfl, by omega⟩
  | desEnc =>
    cases hv : s.ksv with
    | false => exact .inl ⟨_, exec_desEnc_notReady hv⟩
    | true => exact .inl ⟨_, exec_desEnc hv⟩
  | desDec =>
    cases hv : s.ksv with
    | false => exact .inl ⟨_, exec_desDec_notReady hv⟩
    | true => exact .inl ⟨_, exec_desDec hv⟩
  | shaInit => exact .inl ⟨_, rfl⟩
  | shaBlock =>
    cases hv : s.shv with
    | false => exact .inl ⟨_, exec_shaBlock_notReady hv⟩
    | true => exact .inl ⟨_, exec_shaBlock hv⟩
  | rsaMul =>
    by_cases hm : s.modn = 0
    · exact .inl ⟨_, exec_rsaMul_modulusError hm⟩
    · exact .inl ⟨_, exec_rsaMul hm⟩
  | rsaExp =>
    by_cases hm : s.modn = 0
    · exact .inl ⟨_, exec_rsaExp_modulusError hm⟩
    · exact .inl ⟨_, exec_rsaExp hm⟩

/-- A command neither reads nor writes the host's queue and answers. -/
theorem exec_port {i : Instr} {s t : State} (h : exec i s = .next t) (es : List HostEvent)
    (rs : List Reply) :
    exec i { s with pending := es, replies := rs } = .next { t with pending := es, replies := rs } := by
  apply exec_of_outcomes
  cases exec_outcomes h with
  | sysNop => exact .sysNop
  | sysReset => exact .sysReset
  | ksInit => exact .ksInit
  | ksInitBad klen hk => exact .ksInitBad klen hk
  | ksLoad => exact .ksLoad
  | ksLoadBad klen hk => exact .ksLoadBad klen hk
  | ksStepNotReady hl => exact .ksStepNotReady hl
  | ksStepFull hl hr => exact .ksStepFull hl hr
  | ksStep j hl hr => exact .ksStep j hl hr
  | desEnc hv => exact .desEnc hv
  | desEncNotReady hv => exact .desEncNotReady hv
  | desDec hv => exact .desDec hv
  | desDecNotReady hv => exact .desDecNotReady hv
  | shaInit => exact .shaInit
  | shaBlock hv => exact .shaBlock hv
  | shaBlockNotReady hv => exact .shaBlockNotReady hv
  | rsaMul hm => exact .rsaMul hm
  | rsaMulModulus hm => exact .rsaMulModulus hm
  | rsaExp hm => exact .rsaExp hm
  | rsaExpModulus hm => exact .rsaExpModulus hm

end Sys2Proof.Machine
end

