-- ==== Sys2Proof/Laws/Ks.lean ====
section
/-! SUPPORT. The key schedule in closed form (R105), and the ranges of its two tables (R101, R102). -/

namespace Sys2Proof.Machine

theorem pc1_range : ∀ i : Fin 56, 1 ≤ pc1[i] ∧ pc1[i] ≤ 64 ∧ pc1[i] % 8 ≠ 0 := by decide +kernel

theorem pc2_range : ∀ i : Fin 48, 1 ≤ pc2[i] ∧ pc2[i] ≤ 56 := by decide +kernel

theorem shiftSum_succ : ∀ r : Fin 16,
    (shiftSum r % 28 + shiftAmount (r + 1)) % 28 = shiftSum (r + 1) % 28 := by decide

/-- The halves after `r` rounds are the permuted key's, rotated by the sum of the shifts so far. -/
theorem halvesAfter_eq (k : Block) {r : Nat} (h : r ≤ 16) :
    halvesAfter k r = ⟨rotl (permutedKey k).c (shiftSum r % 28), rotl (permutedKey k).d (shiftSum r % 28)⟩ := by
  induction r with
  | zero => simp [halvesAfter, shiftSum, rotl_zero]
  | succ r ih =>
    rw [halvesAfter, ih (by omega)]
    simp only [rotateHalves, rotl_rotl]
    rw [shiftSum_succ ⟨r, by omega⟩]

end Sys2Proof.Machine
end

