-- ==== Sys2Proof/Laws/PerInstr.lean ====
section
/-! SUPPORT. What is said of every command as syntax, one lemma per constructor. -/

namespace Sys2Proof.Laws.EncodesToRow

/-- R73: the word of a well-formed command is selected by the command's own row of the opcode map. -/
def Statement (i : Instr) : Prop := i.wf = true → i.row.selects (encode i)

/-- The one fact about the immediate: whatever it is, the row's mask drops it. -/
theorem masked_immediate : ∀ a : BitVec 8,
    commandWord 1 0 a &&& 0xFFFFFF00 = 0x10000000 ∧ commandWord 1 1 a &&& 0xFFFFFF00 = 0x11000000 := by
  decide +kernel

theorem sysNop : Statement .sysNop := fun _ => by simp only [OpcodeRow.selects]; decide

theorem sysReset : Statement .sysReset := fun _ => by simp only [OpcodeRow.selects]; decide

theorem ksLoad (klen : Nat) : Statement (.ksLoad klen) := fun _ => (masked_immediate _).1

theorem ksInit (klen : Nat) : Statement (.ksInit klen) := fun _ => (masked_immediate _).2

theorem ksStep : Statement .ksStep := fun _ => by simp only [OpcodeRow.selects]; decide

theorem desEnc : Statement .desEnc := fun _ => by simp only [OpcodeRow.selects]; decide

theorem desDec : Statement .desDec := fun _ => by simp only [OpcodeRow.selects]; decide

theorem shaInit : Statement .shaInit := fun _ => by simp only [OpcodeRow.selects]; decide

theorem shaBlock : Statement .shaBlock := fun _ => by simp only [OpcodeRow.selects]; decide

theorem rsaMul : Statement .rsaMul := fun _ => by simp only [OpcodeRow.selects]; decide

theorem rsaExp : Statement .rsaExp := fun _ => by simp only [OpcodeRow.selects]; decide

end Sys2Proof.Laws.EncodesToRow
end

