-- ==== Sys2Proof/Laws/Port.lean ====
section
/-! SUPPORT. What the port and one step do, said once. -/

namespace Sys2Proof.Machine

@[simp] theorem returned_next (s : State) : returned (.next s) = .next (s.answer .done) := rfl

theorem issue_of_decode {w : Word} {i : Instr} (h : decode w = .ok i) (s : State) :
    issue w s = exec i s := by simp [issue, h]

theorem issue_of_illegal {w : Word} {e : Illegal} (h : decode w = .error e) (s : State) :
    issue w s = .next (s.setErr 5) := by simp [issue, h, CmdError.code]

theorem issue_of_no_decode {w : Word} (h : ∀ i, decode w ≠ .ok i) (s : State) :
    issue w s = .next (s.setErr 5) := by
  cases hd : decode w with
  | ok i => exact absurd hd (h i)
  | error e => exact issue_of_illegal hd s

/-- Everything the issue of a word can do when the machine goes on. -/
theorem issue_cases {w : Word} {s t : State} (h : issue w s = .next t) :
    (∃ i, decode w = .ok i ∧ exec i s = .next t) ∨ ((∀ i, decode w ≠ .ok i) ∧ t = s.setErr 5) := by
  cases hd : decode w with
  | ok i => exact .inl ⟨i, rfl, by rwa [issue_of_decode hd] at h⟩
  | error e =>
    refine .inr ⟨by simp, ?_⟩
    rw [issue_of_illegal hd] at h
    cases h
    rfl

@[simp] theorem event_rd (rid : Nat) (s : State) :
    event (.rd rid) s = .next (s.answer (.data rid (s.readRid rid))) := rfl

@[simp] theorem event_cmd (w : Word) (s : State) : event (.wr (.cmd w)) s = returned (issue w s) := rfl

@[simp] theorem event_reset (s : State) : event .reset s = .next (resetCore s) := rfl

@[simp] theorem event_resetDuring (w : Word) (s : State) :
    event (.resetDuring w) s = .next (resetCore s) := rfl

theorem event_store {write : RegWrite} (h : write.command? = none) (s : State) :
    event (.wr write) s = .next ((s.store write).answer .done) := by simp [event, h]

theorem RegWrite.command?_eq_some {write : RegWrite} {w : Word} (h : write.command? = some w) :
    write = .cmd w := by
  cases write <;> simp_all [RegWrite.command?]

theorem returned_eq_next {r : Result} {t : State} (h : returned r = .next t) :
    ∃ u, r = .next u ∧ t = u.answer .done := by
  cases r with
  | next u => cases h; exact ⟨u, rfl, rfl⟩
  | fault f => cases h
  | refused f => cases h

/-- Everything an event can do when the machine goes on. -/
theorem event_cases {e : HostEvent} {s t : State} (h : event e s = .next t) :
    (∃ rid, e = .rd rid ∧ t = s.answer (.data rid (s.readRid rid))) ∨
    (∃ w u, e = .wr (.cmd w) ∧ issue w s = .next u ∧ t = u.answer .done) ∨
    (∃ write, e = .wr write ∧ write.command? = none ∧ t = (s.store write).answer .done) ∨
    ((e = .reset ∨ ∃ w, e = .resetDuring w) ∧ t = resetCore s) := by
  cases e with
  | rd rid => cases h; exact .inl ⟨rid, rfl, rfl⟩
  | reset => cases h; exact .inr (.inr (.inr ⟨.inl rfl, rfl⟩))
  | resetDuring w => cases h; exact .inr (.inr (.inr ⟨.inr ⟨w, rfl⟩, rfl⟩))
  | wr write =>
    cases hc : write.command? with
    | none =>
      rw [event_store hc] at h
      cases h
      exact .inr (.inr (.inl ⟨write, rfl, hc, rfl⟩))
    | some w =>
      obtain rfl := RegWrite.command?_eq_some hc
      obtain ⟨u, hu, rfl⟩ := returned_eq_next h
      exact .inr (.inl ⟨w, u, rfl, hu, rfl⟩)

theorem step_idle {s : State} (h : s.pending = []) : step s = .next s := by
  simp [step, takeEvent, h]

theorem step_event {s : State} {e : HostEvent} {rest : List HostEvent} (h : s.pending = e :: rest) :
    step s = event e (s.setPending rest) := by
  simp [step, takeEvent, h]

/-- Storing touches no flag and nothing of the port. -/
theorem State.store_flags (s : State) (write : RegWrite) :
    (s.store write).err = s.err ∧ (s.store write).ksl = s.ksl ∧ (s.store write).ksrnd = s.ksrnd ∧
    (s.store write).shv = s.shv ∧ (s.store write).c = s.c ∧ (s.store write).d = s.d ∧
    (s.store write).rk = s.rk ∧ (s.store write).h = s.h ∧ (s.store write).res = s.res ∧
    (s.store write).pending = s.pending ∧ (s.store write).replies = s.replies ∧
    (s.store write).freeCount = s.freeCount := by
  cases write <;> exact ⟨rfl, rfl, rfl, rfl, rfl, rfl, rfl, rfl, rfl, rfl, rfl, rfl⟩

/-- The identifier of every register names it (R21). -/
theorem Reg.ofRid_rid (r : Reg) : Reg.ofRid r.rid = some r := by
  cases r with
  | rk i => revert i; decide
  | h i => revert i; decide
  | msg i => revert i; decide
  | _ => rfl

theorem State.readRid_rid (s : State) (r : Reg) : s.readRid r.rid = s.read r := by
  simp [State.readRid, Reg.ofRid_rid]

@[simp] theorem runEvents_nil (s : State) : runEvents [] s = .next s := rfl

theorem runEvents_cons {e : HostEvent} {s t : State} (h : event e s = .next t) (es : List HostEvent) :
    runEvents (e :: es) s = runEvents es t := by simp [runEvents, h]

theorem runEvents_append {es : List HostEvent} {s t : State} (h : runEvents es s = .next t)
    (fs : List HostEvent) : runEvents (es ++ fs) s = runEvents fs t := by
  induction es generalizing s with
  | nil => cases h; rfl
  | cons e es ih =>
    cases he : event e s with
    | next u =>
      rw [runEvents_cons he] at h
      rw [List.cons_append, runEvents_cons he]
      exact ih h
    | fault f => simp [runEvents, he] at h
    | refused r => simp [runEvents, he] at h

end Sys2Proof.Machine
end

