-- ==== Sys2Proof/Laws/Rsa.lean ====
section
/-! SUPPORT. The value of the exponentiator's micro-sequence (R195, R197). -/

namespace Sys2Proof.Machine

/-- The loop of R197, entered with the power of the exponent's bits already consumed. -/
theorem expLoop_eq (b x n : Nat) (i r : Nat) (hr : r = b ^ (x / 2 ^ i) % n) :
    expLoop b x n i r = b ^ x % n := by
  induction i generalizing r with
  | zero => simp [expLoop, hr]
  | succ i ih =>
    rw [expLoop]
    apply ih
    have hsplit : x / 2 ^ i = 2 * (x / 2 ^ (i + 1)) + x / 2 ^ i % 2 := by
      rw [Nat.pow_succ, ← Nat.div_div_eq_div_mul]; omega
    have ht : x.testBit i = decide (x / 2 ^ i % 2 = 1) := Nat.testBit_eq_decide_div_mod_eq
    generalize x / 2 ^ i = y at *
    generalize x / 2 ^ (i + 1) = z at *
    rw [hsplit, ht, Nat.pow_add, Nat.two_mul, Nat.pow_add]
    subst hr
    rcases Nat.mod_two_eq_zero_or_one y with h | h <;> simp [h, modMul, Nat.mul_mod]

/-- R195: `powmod(b, x, n) = b^x mod n`. -/
theorem powmod_eq (b x n : Nat) : powmod b x n = b ^ x % n := by
  unfold powmod
  apply expLoop_eq
  have h : x < 2 ^ bitLength x := by
    unfold bitLength
    split
    · subst_vars; simp
    · exact Nat.lt_log2_self
  rw [Nat.div_eq_of_lt h, Nat.pow_zero]

end Sys2Proof.Machine
end

