-- ==== Sys2Proof/Laws/Safety.lean ====
section
/-! SUPPORT. What the events that keep BLK and a complete schedule do. -/

namespace Sys2Proof.Machine

/-- While the schedule is complete such an event completes, and keeps BLK, the round keys and KSV. -/
theorem event_keepsBlockAndKey {e : HostEvent} {s : State} (hv : s.ksv = true)
    (he : e.KeepsBlockAndKey) :
    ∃ t, event e s = .next t ∧ t.ksv = true ∧ t.rk = s.rk ∧ t.blk = s.blk := by
  have hk : s.ksl = true ∧ s.ksrnd = 16 := by simpa [State.ksv] using hv
  obtain ⟨hkey, hblk, hdes⟩ := he
  cases e with
  | rd rid => exact ⟨_, rfl, hv, rfl, rfl⟩
  | reset => exact hkey.elim
  | resetDuring w => exact hkey.elim
  | wr write =>
    cases hw : write.command? with
    | none =>
      refine ⟨_, event_store hw s, ?_, ?_, ?_⟩ <;> cases write <;>
        first | rfl | exact hv | exact absurd rfl (hblk _)
    | some w =>
      obtain rfl := RegWrite.command?_eq_some hw
      obtain ⟨hinit, hload, hreset⟩ := hkey w rfl
      obtain ⟨henc, hdec⟩ := hdes w rfl
      cases hd : decode w with
      | error e =>
        exact ⟨(s.setErr 5).answer .done, by rw [event_cmd, issue_of_illegal hd]; rfl, hv, rfl, rfl⟩
      | ok i =>
        rcases exec_next_or_outOfRange i s with ⟨t, ht⟩ | ⟨_, _, hr⟩
        · refine ⟨t.answer .done, by rw [event_cmd, issue_of_decode hd, ht]; rfl, ?_⟩
          cases exec_outcomes ht with
          | sysReset => exact absurd hd hreset
          | ksInit => exact absurd hd hinit
          | ksLoad => exact absurd hd hload
          | desEnc => exact absurd hd henc
          | desDec => exact absurd hd hdec
          | ksStep j hl hr =>
            rw [hk.2] at hr
            exact absurd hr (by have := j.isLt; simp; omega)
          | _ => exact ⟨hv, rfl, rfl⟩
        · rw [hk.2] at hr
          exact absurd hr (by decide)

/-- And so does a run of them. -/
theorem runEvents_keepsBlockAndKey (es : List HostEvent) {s : State} (hv : s.ksv = true)
    (hes : ∀ e ∈ es, e.KeepsBlockAndKey) :
    ∃ t, runEvents es s = .next t ∧ t.ksv = true ∧ t.rk = s.rk ∧ t.blk = s.blk := by
  induction es generalizing s with
  | nil => exact ⟨s, rfl, hv, rfl, rfl⟩
  | cons e es ih =>
    obtain ⟨t, ht, hv', hrk, hblk⟩ := event_keepsBlockAndKey hv (hes e List.mem_cons_self)
    obtain ⟨u, hu, hvu, hrk', hblk'⟩ := ih hv' fun e he => hes e (List.mem_cons_of_mem _ he)
    exact ⟨u, by rw [runEvents_cons ht, hu], hvu, hrk'.trans hrk, hblk'.trans hblk⟩

end Sys2Proof.Machine
end

