-- ==== Sys2Proof/Laws/Sha.lean ====
section
/-! SUPPORT. What extending the message schedule keeps and adds (R164). -/

namespace Sys2Proof.Machine

theorem extendSchedule_length (n : Nat) (w : List Word) : (extendSchedule n w).length = w.length + n := by
  induction n generalizing w with
  | zero => simp [extendSchedule]
  | succ n ih => simp [extendSchedule, ih]; omega

theorem extendSchedule_old (n : Nat) (w : List Word) (i : Nat) (h : i < w.length) :
    (extendSchedule n w)[i]? = w[i]? := by
  induction n generalizing w with
  | zero => simp [extendSchedule]
  | succ n ih => rw [extendSchedule, ih _ (by simp; omega), List.getElem?_append_left h]

end Sys2Proof.Machine
end

