-- ==== Sys2Proof/Tests/Slice0.lean ====
section
/-! SUPPORT. The model's own tests. Expected values come from spec/: 30_encoding.md R73 for words, and the
vectors of 95_test_vectors.md, named where used. No test leans on a value the spec leaves open. The second
half shows, for each obligation with hypotheses, a state and operands that meet them. -/

namespace Sys2Proof.Tests

open Sys2Proof.Machine

-- One proof at a time: checked side by side, these evaluations reserve more memory than a build may have.
set_option Elab.async false

/-! ### Helpers -/

/-- Whether a command goes on to a state with the property. -/
def nextHas (r : Result) (p : State → Bool) : Bool :=
  match r with
  | .next s => p s
  | .fault _ => false
  | .refused _ => false

/-- The state a result leaves, for building states. -/
def left (r : Result) : State :=
  match r with
  | .next s => s
  | .fault _ => State.reset
  | .refused _ => State.reset

/-- A host-level answer satisfies the property. -/
def answers {α : Type} (r : HostResult α) (p : α → Bool) : Bool :=
  match r with
  | .next (_, a) => p a
  | .fault _ => false
  | .refused _ => false

/-- A decoding is that command. -/
def decodesTo (w : Word) (i : Instr) : Bool :=
  match decode w with
  | .ok j => j == i
  | .error _ => false

/-- A decoding is refused for that reason. -/
def refusedAs (w : Word) (e : Illegal) : Bool :=
  match decode w with
  | .ok _ => false
  | .error f => f == e

/-- The key of V1. -/
def keyed : State := { State.reset with key := 0x133457799BBCDFF1 }

/-- The key of V1 with its whole schedule, and the block of F1. -/
def scheduled : State := { left (exec (.ksLoad 8) keyed) with blk := 0x0123456789ABCDEF }

/-- The chunk of "abc" (B1). -/
def abcChunk : Vector Word 16 := #v[0x61626380, 0, 0, 0, 0, 0, 0, 0, 0, 0, 0, 0, 0, 0, 0, 0x18]

/-- The operands of A1. -/
def rsaState : State := { State.reset with opa := 65, opb := 5000, expo := 17, modn := 3233, res := 7 }

/-! ### Well-formedness refuses the terms that have no encoding -/

theorem test_wf_refuses_long_load_length : Instr.wf (.ksLoad 256) = false := by decide

theorem test_wf_refuses_long_init_length : Instr.wf (.ksInit 256) = false := by decide

theorem test_klen_fits_up_to_255 : klenFits 255 = true ∧ klenFits 256 = false := by decide

/-! ### Decoding: words written from R70 and R73 as UNIT, FUNC, ZERO, ARG -/

theorem test_decode_sysNop : decodesTo 0b0000_0000_0000000000000000_00000000 .sysNop = true := by decide

theorem test_decode_sysReset : decodesTo 0b0000_0001_0000000000000000_00000000 .sysReset = true := by decide

theorem test_decode_ksLoad : decodesTo 0b0001_0000_0000000000000000_10100101 (.ksLoad 165) = true := by decide

theorem test_decode_ksInit : decodesTo 0b0001_0001_0000000000000000_00001000 (.ksInit 8) = true := by decide

theorem test_decode_ksStep : decodesTo 0b0001_0010_0000000000000000_00000000 .ksStep = true := by decide

theorem test_decode_desEnc : decodesTo 0b0010_0000_0000000000000000_00000000 .desEnc = true := by decide

theorem test_decode_desDec : decodesTo 0b0010_0001_0000000000000000_00000000 .desDec = true := by decide

theorem test_decode_shaInit : decodesTo 0b0011_0000_0000000000000000_00000000 .shaInit = true := by decide

theorem test_decode_shaBlock : decodesTo 0b0011_0001_0000000000000000_00000000 .shaBlock = true := by decide

theorem test_decode_rsaMul : decodesTo 0b0100_0000_0000000000000000_00000000 .rsaMul = true := by decide

theorem test_decode_rsaExp : decodesTo 0b0100_0001_0000000000000000_00000000 .rsaExp = true := by decide

/-- E1's illegal words, each at the edge of one clause of R75. -/
theorem test_decode_refuses :
    refusedAs 0x00000001 .argNotZero = true ∧ refusedAs 0x12000008 .argNotZero = true ∧
    refusedAs 0x02000000 .reservedFunc = true ∧ refusedAs 0x13000000 .reservedFunc = true ∧
    refusedAs 0x22000000 .reservedFunc = true ∧ refusedAs 0x32000000 .reservedFunc = true ∧
    refusedAs 0x42000000 .reservedFunc = true ∧ refusedAs 0x10000108 .zeroFieldNotZero = true ∧
    refusedAs 0x10800008 .zeroFieldNotZero = true ∧ refusedAs 0x50000000 .reservedUnit = true ∧
    refusedAs 0xF0000000 .reservedUnit = true := by decide

/-- The host's numbering: 32 bits, no byte order; nothing longer is a command. -/
theorem test_decode_table_word :
    decodeTableWord 32 0x100000FF = some (.ksLoad 255) ∧ decodeTableWord 32 0x50000000 = none ∧
    decodeTableWord 64 0x100000000 = none := by decide

theorem test_encode_ksLoad : encode (.ksLoad 255) = 0x100000FF := by decide

/-! ### One step each -/

/-- P1, E2. -/
theorem test_sysNop_clears_err :
    nextHas (exec .sysNop { rsaState with err := 5 }) (fun s => s.err == 0 && s.res == 7) = true := by decide

/-- E4. -/
theorem test_sysReset_status :
    nextHas (exec .sysReset { scheduled with shv := true, err := 4 }) (fun s => s.status == 0) = true := by
  decide +kernel

/-- V1, rows 1, 9 and 16, and C and D back at row 0. -/
theorem test_ksLoad_schedule :
    nextHas (exec (.ksLoad 8) keyed) (fun s =>
      s.c == 0xF0CCAAF && s.d == 0x556678F && s.rk[0] == 0x1B02EFFC7072 && s.rk[8] == 0xE0DBEBEDE781 &&
      s.rk[15] == 0xCB3D8B0E17F5 && s.status == 0x00001030) = true := by decide +kernel

/-- V8. -/
theorem test_ksLoad_length_7 :
    nextHas (exec (.ksLoad 7) scheduled) (fun s => s.status == 0x00001031 && s.rk == scheduled.rk) = true := by
  decide +kernel

/-- V1, row 0. -/
theorem test_ksInit_row_0 :
    nextHas (exec (.ksInit 8) keyed) (fun s =>
      s.c == 0xF0CCAAF && s.d == 0x556678F && s.status == 0x00000010) = true := by decide +kernel

/-- V1, row 2 from row 1: a shift by one, not two. -/
theorem test_ksStep_row_2 :
    nextHas (exec .ksStep { State.reset with c := 0xE19955F, d := 0xAACCF1E, ksl := true, ksrnd := 1 })
      (fun s => s.c == 0xC332ABF && s.d == 0x5599E3D && s.rk[1] == 0x79AED9DBC9E5 &&
        s.status == 0x00000210) = true := by decide +kernel

/-- V8. -/
theorem test_ksStep_after_16 :
    nextHas (exec .ksStep scheduled) (fun s => s.status == 0x00001033 && s.rk == scheduled.rk) = true := by
  decide +kernel

/-- F1. -/
theorem test_desEnc_block :
    nextHas (exec .desEnc scheduled) (fun s => s.blk == 0x85E813540F0AB405) = true := by decide +kernel

/-- F5. -/
theorem test_desEnc_not_ready :
    nextHas (exec .desEnc { scheduled with ksrnd := 15 }) (fun s =>
      s.err == 2 && s.blk == 0x0123456789ABCDEF) = true := by decide +kernel

/-- F3. -/
theorem test_desDec_block :
    nextHas (exec .desDec { scheduled with blk := 0x85E813540F0AB405 })
      (fun s => s.blk == 0x0123456789ABCDEF) = true := by decide +kernel

/-- F2. -/
theorem test_feistelF :
    permute eTable (0xF0AAF0AA : Word) = 0x7A15557A1555 ∧ feistelF 0xF0AAF0AA 0x1B02EFFC7072 = 0x234AA9BB := by
  decide +kernel

/-- S6. -/
theorem test_shaInit_digest :
    nextHas (exec .shaInit State.reset) (fun s =>
      s.h == #v[0x67452301, 0xEFCDAB89, 0x98BADCFE, 0x10325476, 0xC3D2E1F0] && s.status == 0x40) = true := by
  decide +kernel

/-- B1. -/
theorem test_shaBlock_abc :
    nextHas (exec .shaBlock { left (exec .shaInit State.reset) with msg := abcChunk }) (fun s =>
      s.h == #v[0xA9993E36, 0x4706816A, 0xBA3E2571, 0x7850C26C, 0x9CD0D89D]) = true := by decide +kernel

/-- B8. -/
theorem test_shaBlock_not_ready :
    nextHas (exec .shaBlock { State.reset with msg := abcChunk }) (fun s =>
      s.err == 2 && s.h == State.reset.h) = true := by decide +kernel

/-- A4: a 128-bit product. -/
theorem test_rsaMul_wide :
    nextHas (exec .rsaMul { State.reset with
      opa := 0xFFFFFFFFFFFFFFFF, opb := 0xFFFFFFFFFFFFFFFF, modn := 0xFFFFFFFFFFFFFFC5 })
      (fun s => s.res == 3364) = true := by decide +kernel

/-- A6. -/
theorem test_rsaMul_modulus_0 :
    nextHas (exec .rsaMul { rsaState with modn := 0 }) (fun s => s.err == 4 && s.res == 7) = true := by decide

/-- A1. -/
theorem test_rsaExp_power :
    nextHas (exec .rsaExp rsaState) (fun s => s.res == 2790 && s.err == 0) = true := by decide +kernel

/-- A5: `0^0 mod 7` is 1, and any power modulo 1 is 0. -/
theorem test_rsaExp_corners :
    nextHas (exec .rsaExp { rsaState with opa := 0, expo := 0, modn := 7 }) (fun s => s.res == 1) = true ∧
    nextHas (exec .rsaExp { rsaState with opa := 0, expo := 0, modn := 1 }) (fun s => s.res == 0) = true := by
  decide +kernel

/-- E3, at each end of every range of identifiers. -/
theorem test_read_by_identifier :
    [0x00, 0x02, 0x06, 0x0F, 0x10, 0x1F, 0x20, 0x24, 0x25, 0x2F, 0x30, 0x3F, 0x40, 0x41, 0x42, 0x43, 0x44,
      0x45].map ({ scheduled with
        h := #v[1, 2, 3, 4, 5], msg := abcChunk, opa := 65, opb := 9, expo := 17, modn := 33, res := 8 }).readRid =
    [0, 0x133457799BBCDFF1, 0, 0, 0x1B02EFFC7072, 0xCB3D8B0E17F5, 1, 5, 0, 0, 0x61626380, 0x18, 65, 9, 17, 33,
      8, 0] := by decide +kernel

/-- A step takes the event that withFetchWord places, and answers the write (R60). -/
theorem test_step_runs_the_word :
    nextHas (step (keyed.withFetchWord 32 0x10000007)) (fun s =>
      s.err == 1 && s.pending == [] && s.replies == [.done]) = true := by decide +kernel

/-! ### Host-level operations -/

/-- T2 and T4's padded inputs. -/
theorem test_desPad :
    desPad [0x48, 0x65, 0x6C, 0x6C, 0x6F] = [0x48, 0x65, 0x6C, 0x6C, 0x6F, 3, 3, 3] ∧
    desPad [] = [8, 8, 8, 8, 8, 8, 8, 8] := by decide

/-- T5, T6, T7: the three padding errors. -/
theorem test_desUnpad_errors :
    desUnpad [0x41, 0x42, 0x43, 0x44, 0x45, 0x46, 0x47, 0] = none ∧
    desUnpad [0x41, 0x42, 0x43, 0x44, 0x45, 0x46, 0x47, 9] = none ∧
    desUnpad [0x48, 0x65, 0x6C, 0x6C, 0x6F, 2, 3, 3] = none := by decide

/-- T2. -/
theorem test_desEncrypt_hello :
    answers (desEncrypt .utf8 (.text ['H', 'e', 'l', 'l', 'o'])
      (left (exec (.ksLoad 8) { State.reset with key := 0x3132333435363738 })))
      (fun t => t == "A1599FCD6C611FCF".toList) = true := by decide +kernel

/-- T8: good padding around bytes that are no UTF-8. -/
theorem test_decryptedText_decode_error :
    (match decryptedText .utf8 [0xFF, 0xFE, 6, 6, 6, 6, 6, 6] with
      | .error e => e == .decodeError
      | .ok _ => false) = true := by decide +kernel

/-- B9: one chunk up to 55 bytes, two from 56. -/
theorem test_shaPad_chunks :
    (pieces 64 (shaPad (List.replicate 55 0x61))).length = 1 ∧
    (pieces 64 (shaPad (List.replicate 56 0x61))).length = 2 := by decide +kernel

/-- A9. -/
theorem test_rsaEncNum_range :
    answers (rsaEncNum 3233 (some ⟨17, 3233⟩) ⟨16, none, none⟩ State.reset)
      (fun r => match r with | .error e => e == .messageTooLarge | .ok _ => false) = true ∧
    answers (rsaEncNum 65 (some ⟨17, 3233⟩) ⟨16, none, none⟩ State.reset)
      (fun r => match r with | .error _ => false | .ok v => v == 2790) = true := by decide +kernel

/-- A10: two strong-pseudoprime cases, and candidates. -/
theorem test_millerRabin :
    millerRabinPasses 251 2 = true ∧ millerRabinPasses 241 7 = true ∧ millerRabinPasses 255 2 = false ∧
    millerRabinPasses 221 137 = false ∧ millerRabinPasses 221 174 = true ∧
    primeCandidate 8 0x7B = 251 ∧ primeCandidate 8 0x70 = 241 := by decide +kernel

/-- A8, from draws: 255 fails, 251 is p, 251 again is drawn anew, 241 is q. -/
theorem test_keyGen_pair :
    keyGenRun 16 [0x7E, 2, 0x7B, 2, 2, 2, 2, 2, 0x7B, 2, 2, 2, 2, 2, 0x70, 7, 2, 2, 2, 2] =
      .finished ⟨⟨65537, 60491⟩, ⟨33473, 60491⟩⟩ := by decide +kernel

/-! ### Witnesses: a state and operands that meet the hypotheses of each obligation -/

theorem illegal_of_refusedAs {w : Word} {e : Illegal} (h : refusedAs w e = true) : ∀ i, decode w ≠ .ok i := by
  intro i hi
  simp [refusedAs, hi] at h

theorem test_witness_DecodeOfEncodeIsIdentity :
    Instr.wf (.ksLoad 0) = true ∧ Instr.wf (.ksLoad 255) = true ∧ Instr.wf (.ksInit 255) = true := by decide

theorem test_witness_EncodeOfDecodeIsIdentity : decode 0x110000FF = .ok (.ksInit 255) := by rfl

theorem test_witness_WordSelectsItsRowExactly :
    decode 0x10000000 = .ok (.ksLoad 0) ∧ Instr.row (.ksLoad 0) ∈ opcodeMap ∧
    (Instr.row (.ksLoad 0)).selects 0x100000FF := by
  refine ⟨rfl, by decide, ?_⟩
  simp only [OpcodeRow.selects]
  decide

/-- Each clause of R75, at the first and the last value it covers. -/
theorem test_witness_illegal_clauses :
    5 ≤ (unitField 0x50000000).toNat ∧ 5 ≤ (unitField 0xF0000000).toNat ∧
    ((unitField 0x02000000).toNat = 0 ∧ 2 ≤ (funcField 0x02000000).toNat) ∧
    ((unitField 0x0F000000).toNat = 0 ∧ 2 ≤ (funcField 0x0F000000).toNat) ∧
    ((unitField 0x13000000).toNat = 1 ∧ 3 ≤ (funcField 0x13000000).toNat) ∧
    ((unitField 0x22000000).toNat = 2 ∧ 2 ≤ (funcField 0x22000000).toNat) ∧
    ((unitField 0x32000000).toNat = 3 ∧ 2 ≤ (funcField 0x32000000).toNat) ∧
    ((unitField 0x42000000).toNat = 4 ∧ 2 ≤ (funcField 0x42000000).toNat) ∧
    zeroField 0x00000100 ≠ 0 ∧ zeroField 0x00800000 ≠ 0 ∧
    (argField 0x12000001 ≠ 0 ∧ ¬ ((unitField 0x12000001).toNat = 1 ∧ (funcField 0x12000001).toNat ≤ 1)) := by
  decide

theorem test_witness_IllegalWordsRaiseIllegalCommand :
    (∀ i, decode 0x50000000 ≠ .ok i) ∧
    ({ State.reset with pending := [.wr (.cmd 0x50000000)] } : State).pending = .wr (.cmd 0x50000000) :: [] :=
  ⟨illegal_of_refusedAs (e := .reservedUnit) (by decide), rfl⟩

theorem test_witness_StepRunsTheIssuedCommand :
    (keyed.withFetchWord 32 0x10000008).pending = .wr (.cmd 0x10000008) :: [] ∧
    decode 0x10000008 = .ok (.ksLoad 8) ∧ Instr.wf (.ksLoad 8) = true := ⟨rfl, rfl, rfl⟩

/-- Every identifier at an edge of a range can be the next read; what each reads is
`test_read_by_identifier`. -/
theorem test_witness_ReadReturnsTheRegister : ∀ rid : Nat,
    ({ State.reset with pending := [.rd rid] } : State).pending = .rd rid :: [] := fun _ => rfl

theorem test_witness_unassigned_edges :
    [0x06, 0x0F, 0x25, 0x2F, 0x45, 0x1000].all (fun rid => (Reg.ofRid rid).isNone) = true ∧
    [0x05, 0x10, 0x1F, 0x20, 0x24, 0x30, 0x3F, 0x40, 0x44].all (fun rid => (Reg.ofRid rid).isSome) = true := by
  decide

/-- A WR of every kind can be the next event, and only one is a write to CMD. -/
theorem test_witness_WriteStoresOrIsIgnored :
    (∀ write : RegWrite,
      ({ State.reset with pending := [.wr write] } : State).pending = .wr write :: []) ∧
    (∀ w, RegWrite.msg 15 0xDEADBEEF ≠ .cmd w) ∧ (∀ w, RegWrite.rk 0 1 ≠ .cmd w) ∧
    (∀ w, RegWrite.unassigned ⟨0x45, by decide⟩ ≠ .cmd w) ∧ (∀ w, RegWrite.unassigned ⟨0x06, by decide⟩ ≠ .cmd w) :=
  ⟨fun _ => rfl, fun _ => by simp, fun _ => by simp, fun _ => by simp, fun _ => by simp⟩

theorem test_witness_IdleCoreDoesNothing : State.reset.pending = [] := rfl

theorem test_witness_HardwareResetEqualsSysReset :
    ({ scheduled with pending := [.reset] } : State).pending = .reset :: [] ∧
    ({ scheduled with pending := [.resetDuring 0x20000000] } : State).pending = .resetDuring 0x20000000 :: [] :=
  ⟨rfl, rfl⟩

/-- One word for each outcome code, 0 to 5 (V8, F5, B8, A6, E1): for CommandOutcomeCodes. -/
theorem test_witness_each_outcome_code :
    nextHas (issue 0x10000008 keyed) (·.err == 0) = true ∧
    nextHas (issue 0x11000009 keyed) (·.err == 1) = true ∧
    nextHas (issue 0x12000000 keyed) (·.err == 2) = true ∧
    nextHas (issue 0x31000000 keyed) (·.err == 2) = true ∧
    nextHas (issue 0x12000000 scheduled) (·.err == 3) = true ∧
    nextHas (issue 0x41000000 keyed) (·.err == 4) = true ∧
    nextHas (issue 0xFFFFFFFF keyed) (·.err == 5) = true := by decide +kernel

theorem test_witness_RaiseChangesOnlyErr :
    issue 0x12000000 State.reset = .next (State.reset.setErr 2) ∧ (State.reset.setErr 2).err ≠ 0 :=
  ⟨rfl, by decide⟩

theorem test_witness_OutcomeIgnoresEarlierError :
    event (.rd 0x01) State.reset = .next (State.reset.answer (.data 0x01 0)) ∧
    event (.wr (.key 1)) State.reset = .next (({ State.reset with key := 1 } : State).answer .done) := by
  refine ⟨?_, rfl⟩
  show Host.Outcome.next _ = _
  rw [show State.reset.readRid 0x01 = 0 by decide +kernel]

theorem test_witness_SysResetClearsFlags : exec .sysReset scheduled = .next (resetCore scheduled) := rfl

/-- The wrong lengths of V8: for KsInitLoadsPermutedKey, KsLoadDerivesWholeSchedule and
LoadEqualsInitAndSixteenSteps. -/
theorem test_witness_wrong_key_lengths : (0 : Nat) ≠ 8 ∧ (7 : Nat) ≠ 8 ∧ (9 : Nat) ≠ 8 ∧ (255 : Nat) ≠ 8 := by
  decide

/-- No key; a full schedule; the first round and the last. -/
theorem test_witness_KsStepDerivesNextRound :
    State.reset.ksl = false ∧ (scheduled.ksl = true ∧ scheduled.ksrnd = 16) ∧
    (({ scheduled with ksrnd := 0 } : State).ksl = true ∧
      ({ scheduled with ksrnd := 0 } : State).ksrnd.toNat = (0 : Fin 16).val) ∧
    (({ scheduled with ksrnd := 15 } : State).ksl = true ∧
      ({ scheduled with ksrnd := 15 } : State).ksrnd.toNat = (15 : Fin 16).val) := by decide +kernel

/-- A state in which KS.STEP stops. -/
theorem test_witness_OnlyImpossibleRoundCountStops :
    ({ scheduled with ksrnd := 17 } : State).ksl = true ∧ 16 < ({ scheduled with ksrnd := 17 } : State).ksrnd.toNat ∧
    exec .ksStep { scheduled with ksrnd := 31 } = .fault .roundCounterOutOfRange :=
  ⟨by decide +kernel, by decide +kernel, rfl⟩

/-- The first and the last round number: for HalvesClosedForm, ComplementedKeyComplementsSchedule and
RoundKeyBitIsOneKeyBit. -/
theorem test_witness_round_numbers : (1 ≤ 1 ∧ 1 ≤ 16) ∧ (1 ≤ 16 ∧ 16 ≤ 16) := by decide

/-- V2: keys that differ in ignored bits only. -/
theorem test_witness_IgnoredKeyBits : ∀ i : Fin 65, 1 ≤ i.val → i.val % 8 ≠ 0 →
    desBit (0x0000000000000000 : Block) i = desBit (0x0101010101010101 : Block) i := by decide +kernel

/-- A bit of C and a bit of D, at the two edges of R117's cases: PC2 selects 28 and 29. -/
theorem test_witness_RoundKeyBitIsOneKeyBit :
    pc2.toList[8 - 1]? = some 28 ∧ pc2.toList[47 - 1]? = some 29 ∧
    (28 - 1 + shiftSum 1) % 28 + 1 = 1 ∧ 28 + (29 - 29 + shiftSum 1) % 28 + 1 = 30 := by decide +kernel

theorem test_witness_KeyWriteKeepsDerivedState :
    ({ scheduled with pending := [.wr (.key 0)] } : State).pending = .wr (.key 0) :: [] := rfl

theorem test_witness_CompleteScheduleIsImmutable :
    scheduled.ksv = true ∧ issue 0x12000000 scheduled = exec .ksStep scheduled ∧
    decode 0x12000000 = .ok .ksStep := ⟨by decide +kernel, rfl, rfl⟩

theorem test_witness_LoadedScheduleBelongsToItsKey :
    exec (.ksInit 8) keyed = .next (left (exec (.ksInit 8) keyed)) ∧
    (∀ e ∈ [HostEvent.rd 0x03, .wr (.key 0)], e.KeepsKey) ∧
    HostEvent.KeepsKey (.command .ksStep) := by
  refine ⟨rfl, ?_, ?_⟩
  · intro e he
    simp only [List.mem_cons, List.not_mem_nil, or_false] at he
    rcases he with rfl | rfl
    · trivial
    · intro w hw
      cases hw
  · intro w hw
    cases hw
    exact ⟨by decide +kernel, by decide +kernel, by decide +kernel⟩

/-- Ready, and not ready for each of the two reasons: also for DesDecUsesKeysInReverse and, with
`test_witness_CompleteScheduleIsImmutable`, the clauses of DecryptAfterEncryptRestoresBlock without events. -/
theorem test_witness_DesEncTransformsBlock :
    (scheduled.ksl = true ∧ scheduled.ksrnd = 16) ∧ State.reset.ksl = false ∧
    ({ scheduled with ksrnd := 15 } : State).ksrnd ≠ 16 := by decide +kernel

theorem test_witness_ReversedKeysUndoTheBlockFunction : (List.replicate 16 (0 : RoundKey)).length = 16 := by
  decide

theorem test_witness_FinalPermutationUndoesInitial :
    ipTable.toList[1 - 1]? = some 58 ∧ ipTable.toList[64 - 1]? = some 7 ∧
    fpTable.toList[1 - 1]? = some 40 ∧ fpTable.toList[64 - 1]? = some 25 := by decide +kernel

/-- Not ready and ready; and a round at each edge of the four ranges. -/
theorem test_witness_ShaBlockCompresses :
    State.reset.shv = false ∧ ({ State.reset with shv := true } : State).shv = true ∧
    (0 ≤ 19 ∧ 19 ≤ 19) ∧ (20 ≤ 20 ∧ 20 ≤ 39) ∧ (20 ≤ 39 ∧ 39 ≤ 39) ∧ (40 ≤ 40 ∧ 40 ≤ 59) ∧
    (40 ≤ 59 ∧ 59 ≤ 59) ∧ 60 ≤ 60 ∧ (60 ≤ 79 ∧ 79 < 80) := by decide

theorem test_witness_MessageScheduleRecurrence : (16 ≤ 16 ∧ 16 < 80) ∧ (16 ≤ 79 ∧ 79 < 80) := by decide

/-- The modulus 0, the modulus 1 and a larger one: also for RsaMulExactResidue and RsaExpIsModularPower. -/
theorem test_witness_RsaResultsAreResidues :
    State.reset.modn = 0 ∧ ({ rsaState with modn := 1 } : State).modn ≠ 0 ∧ rsaState.modn ≠ 0 := by decide

/-- A1, with the least and the greatest message. -/
theorem test_witness_RsaExponentsUndoEachOther :
    Nat.Prime 61 ∧ Nat.Prime 53 ∧ 61 ≠ 53 ∧ 17 * 2753 % ((61 - 1) * (53 - 1)) = 1 ∧ 0 < 61 * 53 ∧
    3232 < 61 * 53 := by norm_num

/-- Every byte is below a modulus of at least 256 (A1's, whose primes and exponents
`test_witness_RsaExponentsUndoEachOther` shows to be right); the keys stored, or given. -/
theorem test_witness_RsaEncryptDecryptRoundTrip :
    (∀ b ∈ (Message.bytes [0x00, 0xFF]).toBytes .utf8, b.toNat < 61 * 53) ∧
    (PkCipher.mk 16 (some ⟨17, 61 * 53⟩) (some ⟨2753, 61 * 53⟩)).pub = some ⟨17, 61 * 53⟩ ∧
    (PkCipher.mk 16 (some ⟨17, 61 * 53⟩) (some ⟨2753, 61 * 53⟩)).prv = some ⟨2753, 61 * 53⟩ ∧
    (some (RsaKey.mk 17 3233) = some ⟨17, 61 * 53⟩) := by decide

theorem test_witness_OperandsStayBelowNbits :
    Instr.rsaExp ≠ .sysReset ∧ FitsNbits 13 rsaState ∧
    nextHas (exec .rsaExp rsaState) (fun s => s.res < 2 ^ 13) = true :=
  ⟨by decide, ⟨by decide, by decide, by decide, by decide, by decide⟩, by decide +kernel⟩

/-- A state with a complete schedule and a command waiting. -/
def waiting : State := { scheduled with pending := [.command .ksStep, .rd 0x01] }

theorem waiting_inv : Inv waiting where
  ksrnd_le := by decide +kernel
  ksrnd_zero h := absurd h (by decide +kernel)
  err_le := by decide +kernel
  scheduled _ := ⟨0x133457799BBCDFF1, by decide +kernel, by decide +kernel, by decide +kernel⟩

/-- Also for EveryEventCompletes. -/
theorem test_witness_InvariantKeptByStep :
    Inv waiting ∧ step waiting = .next (left (step waiting)) ∧
    nextHas (step waiting) (fun s => s.err == 3) = true := ⟨waiting_inv, rfl, by decide +kernel⟩

theorem test_witness_CommandsWriteOnlyListedRegisters :
    exec .shaInit scheduled = .next (left (exec .shaInit scheduled)) ∧ Instr.shaInit ≠ .sysReset ∧
    Instr.shaInit ≠ .desEnc ∧ Instr.shaInit ≠ .rsaMul ∧ (∀ klen, Instr.shaInit ≠ .ksLoad klen) :=
  ⟨rfl, by decide, by decide, by decide, fun _ => by simp⟩

/-- Two states that agree for the hash engine and differ for another. -/
theorem test_witness_EnginesDoNotInterfere :
    engineOf .shaInit = some .hash ∧ Engine.Agree .hash State.reset keyed ∧ State.reset ≠ keyed ∧
    exec .shaInit State.reset = .next (left (exec .shaInit State.reset)) :=
  ⟨rfl, ⟨rfl, rfl, rfl⟩, by decide +kernel, rfl⟩

theorem test_witness_EnginesCommute :
    engineOf (.ksInit 8) = some .cipher ∧ engineOf .shaInit = some .hash ∧ Engine.cipher ≠ .hash ∧
    exec (.ksInit 8) keyed = .next (left (exec (.ksInit 8) keyed)) ∧
    exec .shaInit (left (exec (.ksInit 8) keyed)) =
      .next (left (exec .shaInit (left (exec (.ksInit 8) keyed)))) := ⟨rfl, rfl, by decide, rfl, rfl⟩

/-- The last byte at both edges of its range, just outside it, and a bad pad byte. -/
theorem test_witness_UnpaddingUndoesPadding :
    List.getLast? [0, 0, 0, 0, 0, 0, 0, (1 : Byte)] = some 1 ∧
    List.getLast? (List.replicate 8 (8 : Byte)) = some 8 ∧
    List.getLast? [0, 0, 0, 0, 0, 0, 0, (0 : Byte)] = some 0 ∧
    List.getLast? [0, 0, 0, 0, 0, 0, 0, (9 : Byte)] = some 9 ∧
    List.getLast? [0, 0, 0, 0, 0, 2, 3, (3 : Byte)] = some 3 := by decide

theorem test_witness_DesEncryptDecryptRoundTrip :
    ([0x31, 0x32, 0x33, 0x34, 0x35, 0x36, 0x37, 0x38] : List Byte).length = 8 := by decide

theorem test_witness_HashDependsOnMessageOnly : ([] : List Byte).length < 2 ^ 61 := by decide

/-- The least bit length; `test_keyGen_pair` is a run that finishes with the default exponent and
`test_keyGen_replacement_exponent` one that draws another. -/
theorem test_witness_GeneratedExponentsAreInverse : 16 ≤ 16 := by decide

/-- No key anywhere; a stored key; a message at the modulus and one below it. -/
theorem test_witness_EncNumChecksTheRange :
    (PkCipher.mk 16 none none).pub = none ∧ (PkCipher.mk 16 (some ⟨17, 3233⟩) none).pub = some ⟨17, 3233⟩ ∧
    (RsaKey.mk 17 3233).modulus ≤ 3233 ∧ 3232 < (RsaKey.mk 17 3233).modulus := by decide

/-- 65537 divides phi, so an exponent is drawn: 65537 fails, 3 is coprime to phi. The private exponent is
`3^-1 mod phi` by hand: 3 * 320708018363 = 2 * 481062027544 + 1. -/
theorem test_keyGen_replacement_exponent :
    keyGenRun 40 [917519, 2, 2, 2, 2, 2, 524309, 2, 2, 2, 2, 2, 65537, 3] =
      .finished ⟨⟨3, 481063469371⟩, ⟨320708018363, 481063469371⟩⟩ := by decide +kernel

/-- Events that may stand between DES.ENC and DES.DEC: reads, writes of other registers, commands of other
engines, an illegal word, and a KS.STEP, which fails. -/
theorem test_witness_DecryptAfterEncryptRestoresBlock :
    scheduled.ksv = true ∧
    ∀ e ∈ [HostEvent.rd 0x05, .wr (.key 0), .wr (.msg 0 1), .command .sysNop, .command .shaInit,
      .command .rsaExp, .command .ksStep, .wr (.cmd 0x50000000)], e.KeepsBlockAndKey := by
  refine ⟨by decide +kernel, fun e he => ?_⟩
  simp only [List.mem_cons, List.not_mem_nil, or_false] at he
  rcases he with rfl | rfl | rfl | rfl | rfl | rfl | rfl | rfl
  · exact ⟨trivial, by simp, by simp⟩
  · exact ⟨fun w h => (by cases h), by simp, by simp⟩
  · exact ⟨fun w h => (by cases h), by simp, by simp⟩
  all_goals
    refine ⟨fun w h => ?_, fun v h => (by cases h), fun w h => ?_⟩ <;> cases h <;> decide +kernel

/-- The eight boxes, at the first group and the last. -/
theorem test_witness_SBoxRowAndColumn :
    [sBox1, sBox2, sBox3, sBox4, sBox5, sBox6, sBox7, sBox8][(0 : Fin 8)]? = some sBox1 ∧
    [sBox1, sBox2, sBox3, sBox4, sBox5, sBox6, sBox7, sBox8][(7 : Fin 8)]? = some sBox8 := ⟨rfl, rfl⟩

/-- The edges of each clause: the first and the last bit, a slice that ends the vector, a table's ends. -/
theorem test_witness_BitNotationMeaning :
    (1 ≤ 1 ∧ 1 ≤ 64) ∧ (1 ≤ 64 ∧ 64 ≤ 64) ∧ (1 ≤ 33 ∧ 33 + 32 ≤ 64 + 1 ∧ 1 ≤ 32 ∧ 32 ≤ 32) ∧
    (ipTable.toList[1 - 1]? = some 58 ∧ ipTable.toList[64 - 1]? = some 7) ∧ (0 < 28 ∧ 27 < 28) := by
  decide +kernel

end Sys2Proof.Tests
end

section
/-! PROOF. No command pushes an RSA register past NBITS (R7, R191): the one register the RSA unit writes, RES,
ends below MODN, and the other engines leave the RSA registers alone. -/

namespace Sys2Proof.Machine

theorem modMul_lt (a b : Nat) {n : Nat} (hn : n ≠ 0) : modMul a b n < n :=
  Nat.mod_lt _ (Nat.pos_of_ne_zero hn)

theorem powmod_lt (b x : Nat) {n : Nat} (hn : n ≠ 0) : powmod b x n < n := by
  rw [powmod_eq]
  exact Nat.mod_lt _ (Nat.pos_of_ne_zero hn)

/-- `FitsNbits` speaks of the RSA registers alone. -/
theorem FitsNbits.of_agreeRsa {n : Nat} {s t : State} (h : FitsNbits n s) (hst : AgreeRsa s t) :
    FitsNbits n t where
  opa := hst.opa ▸ h.opa
  opb := hst.opb ▸ h.opb
  expo := hst.expo ▸ h.expo
  modn := hst.modn ▸ h.modn
  res := hst.res ▸ h.res

/-- A residue modulo MODN fits RES wherever the modulus fits MODN. -/
theorem FitsNbits.with_residue {n r : Nat} {s : State} (h : FitsNbits n s) (hr : r < s.modn) :
    FitsNbits n { s with res := r, err := 0 } where
  opa := h.opa
  opb := h.opb
  expo := h.expo
  modn := h.modn
  res := hr.trans h.modn

/-- R7, R191: each outcome of a command other than SYS.RESET keeps the RSA registers within NBITS. -/
theorem Outcomes.keeps_fitsNbits {n : Nat} {i : Instr} {s t : State} (ho : Outcomes s i t)
    (hi : i ≠ .sysReset) (h : FitsNbits n s) : FitsNbits n t := by
  cases ho with
  | sysReset => exact absurd rfl hi
  | rsaMul hm => exact h.with_residue (modMul_lt _ _ hm)
  | rsaExp hm => exact h.with_residue (powmod_lt _ _ hm)
  | _ => exact h.of_agreeRsa ⟨rfl, rfl, rfl, rfl, rfl⟩

/-- Settles O45: only RSA.MUL and RSA.EXP write an RSA register, and what they write is below MODN. -/
theorem operandsStayBelowNbits : Obligations.OperandsStayBelowNbits :=
  fun _ _ _ _ hi hs ht => (exec_outcomes ht).keeps_fitsNbits hi hs

end Sys2Proof.Machine
end

section
/-! PROOF. The notation of R12 to R15 in the view that counts bits from the left, from 1. -/

namespace Sys2Proof.Machine

/-- R12: counting from 1 at the left, bit `i` has weight `2 ^ (n - i)`. -/
theorem desBit_eq_testBit {n : Nat} (v : BitVec n) {i : Nat} (hi : 1 ≤ i) (hn : i ≤ n) :
    desBit v i = v.toNat.testBit (n - i) := by
  have hlt : i - 1 < n := by omega
  have hidx : n - 1 - (i - 1) = n - i := by omega
  simp [desBit, BitVec.getMsbD_eq_getLsbD, BitVec.getLsbD, hlt, hidx]

/-- R12: bit `k` of a slice that starts at bit `i`. -/
theorem desBit_desSlice {n : Nat} (v : BitVec n) {i m k : Nat} (hi : 1 ≤ i) (him : i + m ≤ n + 1)
    (hk : 1 ≤ k) (hkm : k ≤ m) : desBit (desSlice v i m) k = desBit v (i + k - 1) := by
  have hlt : k - 1 < m := by omega
  have hidx : i - 1 + (k - 1) = i + k - 1 - 1 := by omega
  rw [desBit, desBit, getMsbD_desSlice v i m hlt hi him, hidx]

/-- R13: the left part of a concatenation counts `2 ^ m` for each unit. -/
theorem toNat_append_eq_mul_add {n m : Nat} (a : BitVec n) (b : BitVec m) :
    (a ++ b).toNat = a.toNat * 2 ^ m + b.toNat := by
  rw [BitVec.toNat_append, ← Nat.shiftLeft_add_eq_or_of_lt b.isLt, Nat.shiftLeft_eq]

/-- R14: bit `j` of a permuted vector is the bit the table names at place `j`. -/
theorem desBit_permute {n m : Nat} (table : Vector Nat m) (v : BitVec n) {j p : Nat} (hj : 1 ≤ j)
    (hjm : j ≤ m) (hp : table.toList[j - 1]? = some p) : desBit (permute table v) j = desBit v p := by
  have hlt : j - 1 < m := by omega
  have hentry : table[j - 1] = p := by simpa [hlt] using hp
  rw [desBit, getMsbD_permute table v hlt, hentry]

/-- R15: the bits move to the left, cyclically. -/
theorem desBit_rotl {n : Nat} (v : BitVec n) (shift : Nat) {i : Nat} (hi : 1 ≤ i) (hn : i ≤ n) :
    desBit (rotl v shift) i = desBit v ((i - 1 + shift) % n + 1) := by
  have hlt : i - 1 < n := by omega
  rw [desBit, desBit, getMsbD_rotl v shift _ hlt, Nat.add_sub_cancel, Nat.add_comm shift]

/-- Settles O60: one lemma for each of the five notations. -/
theorem bitNotationMeaning : Obligations.BitNotationMeaning :=
  ⟨fun _ v _ hi hn => desBit_eq_testBit v hi hn,
   fun _ v _ _ _ hi him hk hkm => desBit_desSlice v hi him hk hkm,
   fun _ _ a b => toNat_append_eq_mul_add a b,
   fun _ _ table v _ _ hj hjm hp _ _ => desBit_permute table v hj hjm hp,
   fun _ v shift _ _ hi hn => desBit_rotl v shift hi hn⟩

end Sys2Proof.Machine
end

section
/-! PROOF. Every step keeps the invariants of R44 with R114: a command either leaves the schedule alone, loads a
key, drops the key, or derives the next round of the key it holds. -/

namespace Sys2Proof.Machine

/-- Two states hold the same key schedule: C, D, RK and the two registers that say how far it is derived. -/
structure SameSchedule (s t : State) : Prop where
  c : t.c = s.c
  d : t.d = s.d
  rk : t.rk = s.rk
  ksl : t.ksl = s.ksl
  ksrnd : t.ksrnd = s.ksrnd

theorem SameSchedule.ksv {s t : State} (h : SameSchedule s t) : t.ksv = s.ksv := by
  rw [State.ksv, State.ksv, h.ksl, h.ksrnd]

theorem ScheduledFrom.of_sameSchedule {k : Block} {s t : State} (h : ScheduledFrom k s)
    (hst : SameSchedule s t) : ScheduledFrom k t where
  c_eq := by rw [hst.c, hst.ksrnd, h.c_eq]
  d_eq := by rw [hst.d, hst.ksrnd, h.d_eq]
  rk_eq := by rw [hst.rk, hst.ksrnd]; exact h.rk_eq

theorem Inv.of_sameSchedule {s t : State} (h : Inv s) (hst : SameSchedule s t) (he : t.err.toNat ≤ 5) :
    Inv t where
  ksrnd_le := hst.ksrnd ▸ h.ksrnd_le
  ksrnd_zero hl := hst.ksrnd.trans (h.ksrnd_zero (hst.ksl ▸ hl))
  err_le := he
  scheduled hl := (h.scheduled (hst.ksl ▸ hl)).imp fun _ hk => hk.of_sameSchedule hst

/-- Without a key only the flags matter. -/
theorem Inv.of_no_key {s : State} (hl : s.ksl = false) (hr : s.ksrnd = 0) (he : s.err.toNat ≤ 5) :
    Inv s where
  ksrnd_le := by simp [hr]
  ksrnd_zero _ := hr
  err_le := he
  scheduled h := by simp [hl] at h

theorem Inv.of_scheduledFrom {k : Block} {s : State} (hl : s.ksl = true) (hr : s.ksrnd.toNat ≤ 16)
    (he : s.err.toNat ≤ 5) (hk : ScheduledFrom k s) : Inv s where
  ksrnd_le := hr
  ksrnd_zero h := by simp [hl] at h
  err_le := he
  scheduled _ := ⟨k, hk⟩

/-- R105: the closed form in `ScheduledFrom` is the recursion of R104. -/
theorem scheduledFrom_iff {k : Block} {s : State} (hr : s.ksrnd.toNat ≤ 16) :
    ScheduledFrom k s ↔ (⟨s.c, s.d⟩ : Halves) = halvesAfter k s.ksrnd.toNat ∧
      ∀ i : Fin 16, i.val < s.ksrnd.toNat → s.rk[i] = roundKeyOf k (i.val + 1) := by
  rw [halvesAfter_eq k hr, Halves.mk.injEq]
  exact ⟨fun ⟨hc, hd, hrk⟩ => ⟨⟨hc, hd⟩, hrk⟩, fun ⟨⟨hc, hd⟩, hrk⟩ => ⟨hc, hd, hrk⟩⟩

theorem scheduledFrom_ksInitDone (s : State) : ScheduledFrom s.key (ksInitDone s) :=
  (scheduledFrom_iff (by simp [ksInitDone])).mpr ⟨rfl, fun i hi => by simp [ksInitDone] at hi⟩

theorem scheduledFrom_ksLoadDone (s : State) : ScheduledFrom s.key (ksLoadDone s) :=
  (scheduledFrom_iff (by simp [ksLoadDone])).mpr ⟨rfl, fun i _ => by simp [ksLoadDone, scheduleOf]⟩

@[simp] theorem deriveRound_ksrnd_toNat (i : Fin 16) (s : State) :
    (deriveRound i s).ksrnd.toNat = i.val + 1 := by
  have := i.isLt
  simp only [deriveRound, BitVec.toNat_ofNat]
  omega

/-- R110 against R104: from the halves after round `i`, KS.STEP makes those after round `i + 1` and stores that
round's key, and the earlier round keys stay. -/
theorem scheduledFrom_deriveRound {k : Block} {s : State} {i : Fin 16} (h : ScheduledFrom k s)
    (hr : s.ksrnd.toNat = i.val) : ScheduledFrom k (deriveRound i s) := by
  obtain ⟨hcd, hrk⟩ := (scheduledFrom_iff (by omega)).mp h
  have hnext : rotateHalves (i.val + 1) ⟨s.c, s.d⟩ = halvesAfter k (i.val + 1) := by
    rw [hcd, hr, halvesAfter]
  refine (scheduledFrom_iff (by simp)).mpr ⟨?_, fun j hj => ?_⟩
  · rw [deriveRound_ksrnd_toNat, ← hnext]
    rfl
  · rw [deriveRound_ksrnd_toNat] at hj
    simp only [deriveRound, Fin.getElem_fin, Vector.getElem_set, hnext]
    split
    next hij => rw [← hij, roundKeyOf]
    next hij => exact hrk j (by omega)

/-- R270: the outcome codes are 0 to 5. -/
theorem Outcomes.err_le {i : Instr} {s t : State} (ho : Outcomes s i t) : t.err.toNat ≤ 5 := by
  cases ho <;> simp [ksInitDone, ksLoadDone]

theorem inv_resetCore (s : State) : Inv (resetCore s) := .of_no_key rfl rfl (by simp)

theorem Outcomes.keeps_inv {i : Instr} {s t : State} (ho : Outcomes s i t) (h : Inv s) : Inv t := by
  have he := ho.err_le
  cases ho with
  | sysReset => exact inv_resetCore s
  | ksInit => exact .of_scheduledFrom rfl (by simp [ksInitDone]) he (scheduledFrom_ksInitDone s)
  | ksLoad => exact .of_scheduledFrom rfl (by simp [ksLoadDone]) he (scheduledFrom_ksLoadDone s)
  | ksStep j hl hr =>
    obtain ⟨k, hk⟩ := h.scheduled hl
    exact .of_scheduledFrom hl (by simp) he
      ((scheduledFrom_deriveRound hk hr).of_sameSchedule ⟨rfl, rfl, rfl, rfl, rfl⟩)
  | _ => exact h.of_sameSchedule ⟨rfl, rfl, rfl, rfl, rfl⟩ he

theorem issue_keeps_inv {w : Word} {s t : State} (ht : issue w s = .next t) (h : Inv s) : Inv t := by
  obtain ⟨i, -, hi⟩ | ⟨-, rfl⟩ := issue_cases ht
  · exact (exec_outcomes hi).keeps_inv h
  · exact h.of_sameSchedule ⟨rfl, rfl, rfl, rfl, rfl⟩ (by simp)

theorem sameSchedule_store (s : State) (write : RegWrite) : SameSchedule s (s.store write) := by
  obtain ⟨-, hksl, hksrnd, -, hc, hd, hrk, -⟩ := s.store_flags write
  exact ⟨hc, hd, hrk, hksl, hksrnd⟩

theorem Inv.answer {s : State} (h : Inv s) (r : Reply) : Inv (s.answer r) :=
  h.of_sameSchedule ⟨rfl, rfl, rfl, rfl, rfl⟩ h.err_le

theorem Inv.setPending {s : State} (h : Inv s) (es : List HostEvent) : Inv (s.setPending es) :=
  h.of_sameSchedule ⟨rfl, rfl, rfl, rfl, rfl⟩ h.err_le

theorem event_keeps_inv {e : HostEvent} {s t : State} (ht : event e s = .next t) (h : Inv s) : Inv t := by
  obtain ⟨rid, -, rfl⟩ | ⟨w, u, -, hu, rfl⟩ | ⟨write, -, -, rfl⟩ | ⟨-, rfl⟩ := event_cases ht
  · exact h.answer _
  · exact (issue_keeps_inv hu h).answer _
  · have herr := (s.store_flags write).1
    exact (h.of_sameSchedule (sameSchedule_store s write) (herr ▸ h.err_le)).answer _
  · exact inv_resetCore s

/-- Settles O46: an idle step changes nothing, any other takes one event. -/
theorem invariantKeptByStep : Obligations.InvariantKeptByStep := by
  intro s t h ht
  cases hp : s.pending with
  | nil =>
    rw [step_idle hp] at ht
    cases ht
    exact h
  | cons e rest =>
    rw [step_event hp] at ht
    exact event_keeps_inv ht (h.setPending rest)

end Sys2Proof.Machine
end

section
/-! PROOF. STATUS bit by bit (R23). -/

namespace Sys2Proof.Machine

theorem getLsbD_flagAt (b : Bool) {i j : Nat} (hj : j < 32) :
    (flagAt b i).getLsbD j = (b && decide (j = i)) := by
  cases b with
  | false => simp [flagAt]
  | true =>
    rw [Bool.eq_iff_iff]
    simp [flagAt, hj]
    omega

/-- R23: where each bit of STATUS comes from. -/
theorem getLsbD_status (s : State) {j : Nat} (hj : j < 32) :
    s.status.getLsbD j = (s.err.getLsbD j || (s.ksl && decide (j = 4)) || (s.ksv && decide (j = 5)) ||
      (s.shv && decide (j = 6)) || (decide (8 ≤ j) && s.ksrnd.getLsbD (j - 8))) := by
  simp only [State.status, BitVec.getLsbD_or, getLsbD_flagAt _ hj, BitVec.getLsbD_shiftLeft,
    BitVec.getLsbD_setWidth, hj, show j - 8 < 32 by omega, decide_true, Bool.true_and,
    ← Nat.not_lt, decide_not]

theorem status_err_field (s : State) : s.status.extractLsb' 0 4 = s.err := by
  ext j hj
  rw [BitVec.getElem_extractLsb', Nat.zero_add, getLsbD_status s (by omega)]
  simp [hj, show j ≠ 4 by omega, show j ≠ 5 by omega, show j ≠ 6 by omega, show ¬ 8 ≤ j by omega]

theorem status_ksrnd_field (s : State) : s.status.extractLsb' 8 5 = s.ksrnd := by
  ext j hj
  rw [BitVec.getElem_extractLsb', getLsbD_status s (by omega)]
  simp [hj, show 8 + j ≠ 4 by omega, show 8 + j ≠ 5 by omega, show 8 + j ≠ 6 by omega,
    show 4 ≤ 8 + j by omega]

theorem status_upper_bits (s : State) : s.status.extractLsb' 13 19 = 0 := by
  ext j hj
  rw [BitVec.getElem_extractLsb', getLsbD_status s (by omega)]
  simp [show 13 + j ≠ 4 by omega, show 13 + j ≠ 5 by omega, show 13 + j ≠ 6 by omega,
    show 4 ≤ 13 + j by omega, show 5 ≤ 13 + j - 8 by omega]

theorem status_eq_zero {s : State} (he : s.err = 0) (hl : s.ksl = false) (hr : s.ksrnd = 0)
    (hv : s.shv = false) : s.status = 0 := by
  simp [State.status, State.ksv, flagAt, he, hl, hr, hv]

/-- R213: STATUS is read-only. -/
theorem step_write_status {s : State} {v : Word} {rest : List HostEvent}
    (h : s.pending = .wr (.status v) :: rest) :
    step s = .next { s with pending := rest, replies := .done :: s.replies } := by
  rw [step_event h, event_store rfl]
  rfl

/-- Settles O12: each field is a range of `getLsbD_status`. -/
theorem statusWordLayout : Obligations.StatusWordLayout := by
  intro s
  have hbit {j : Nat} (hj : j < 32) := getLsbD_status s hj
  refine ⟨status_err_field s, ?ksl, ?ksv, State.ksv_eq_true, ?shv, ?bit7, status_ksrnd_field s,
    status_upper_bits s, fun _ _ => step_write_status⟩
  all_goals
    rw [hbit (by decide)]
    simp

end Sys2Proof.Machine
end

section
/-! PROOF. What an event makes of the error code before it: a command overwrites it unread, any other access keeps
it (R38). -/

namespace Sys2Proof.Machine

/-- R38: no command has a guard that reads ERR, and each overwrites it. -/
theorem exec_setErr (i : Instr) (e : BitVec 4) (s : State) : exec i (s.setErr e) = exec i s := by
  cases i <;> rfl

theorem issue_setErr (w : Word) (e : BitVec 4) (s : State) : issue w (s.setErr e) = issue w s := by
  cases hd : decode w with
  | ok i => rw [issue_of_decode hd, issue_of_decode hd, exec_setErr]
  | error _ => rw [issue_of_illegal hd, issue_of_illegal hd, State.setErr_setErr]

theorem event_write_keeps_err {write : RegWrite} {s t : State} (hw : ∀ w, write ≠ .cmd w)
    (h : event (.wr write) s = .next t) : t.err = s.err := by
  obtain ⟨_, hrd, -⟩ | ⟨w, _, hcmd, -⟩ | ⟨_, -, -, rfl⟩ | ⟨hreset, -⟩ := event_cases h
  · simp at hrd
  · simp [hw w] at hcmd
  · exact (s.store_flags _).1
  · simp at hreset

/-- Settles O15: no meaning reads ERR, and no storage is ERR's. -/
theorem outcomeIgnoresEarlierError : Obligations.OutcomeIgnoresEarlierError := by
  refine ⟨fun s w e => issue_setErr w e s, fun s t rid h => ?_, fun _ _ _ => event_write_keeps_err⟩
  rw [event_rd] at h
  cases h
  rfl

end Sys2Proof.Machine
end

section
/-! PROOF. KS.STEP with an impossible KSRND is the one command that stops the machine (R26, R44). -/

namespace Sys2Proof.Machine

/-- Settles O20: `exec_next_or_outOfRange` leaves KS.STEP with KSRND above 16 as the one case that stops. -/
theorem onlyImpossibleRoundCountStops : Obligations.OnlyImpossibleRoundCountStops := by
  refine ⟨fun s => exec_ksStep_outOfRange, fun i s f h => ?_, fun i s r h => ?_⟩
  · obtain ⟨t, ht⟩ | ⟨hi, hl, hr⟩ := exec_next_or_outOfRange i s
    · simp [ht] at h
    · exact ⟨hi, hl, hr, fun hinv => Nat.not_lt.mpr hinv.ksrnd_le hr⟩
  · obtain ⟨t, ht⟩ | ⟨rfl, hl, hr⟩ := exec_next_or_outOfRange i s
    · simp [ht] at h
    · simp [exec_ksStep_outOfRange hl hr] at h

end Sys2Proof.Machine
end

section
/-! PROOF. A complete schedule changes only with a new key or a reset (R29, R111). -/

namespace Sys2Proof.Machine

/-- R29: with the schedule complete, a command that neither loads a key nor resets leaves it, and KS.STEP finds
that no round is left (R111). -/
theorem Outcomes.keeps_complete_schedule {i : Instr} {s t : State} (ho : Outcomes s i t) (hv : s.ksv = true)
    (hinit : i ≠ .ksInit 8) (hload : i ≠ .ksLoad 8) (hreset : i ≠ .sysReset) :
    SameSchedule s t ∧ (i = .ksStep → t.err = 3) := by
  obtain ⟨hl, hr⟩ := State.ksv_eq_true.mp hv
  cases ho with
  | ksInit => exact absurd rfl hinit
  | ksLoad => exact absurd rfl hload
  | sysReset => exact absurd rfl hreset
  | ksStepNotReady hl' => simp [hl] at hl'
  | ksStep j _ hj =>
    rw [hr] at hj
    exact absurd hj.symm (Nat.ne_of_lt j.isLt)
  | ksStepFull => exact ⟨⟨rfl, rfl, rfl, rfl, rfl⟩, fun _ => rfl⟩
  | _ => exact ⟨⟨rfl, rfl, rfl, rfl, rfl⟩, by simp⟩

/-- Settles O28: an illegal word changes ERR alone, and the legal ones are `Outcomes.keeps_complete_schedule`. -/
theorem completeScheduleIsImmutable : Obligations.CompleteScheduleIsImmutable := by
  intro s t w hv ht hinit hload hreset
  obtain ⟨i, hd, hi⟩ | ⟨hd, rfl⟩ := issue_cases ht
  · rw [hd] at hinit hload hreset ⊢
    obtain ⟨hsame, hstep⟩ := (exec_outcomes hi).keeps_complete_schedule hv (by simpa using hinit)
      (by simpa using hload) (by simpa using hreset)
    exact ⟨hsame.rk, hsame.c, hsame.d, hsame.ksv.trans hv, by simpa using hstep⟩
  · exact ⟨rfl, rfl, rfl, hv, fun h => absurd h (hd _)⟩

end Sys2Proof.Machine
end

section
/-! PROOF. The word of a well-formed command decodes to it (R70 to R73), and a step that takes its write to CMD
runs it (R22, R60). -/

namespace Sys2Proof.Machine

/-- R70: the value of a command word, field by field. -/
theorem toNat_commandWord (u f : BitVec 4) (a : BitVec 8) :
    (commandWord u f a).toNat = u.toNat * 2 ^ 28 + f.toNat * 2 ^ 24 + a.toNat := by
  simp only [commandWord, toNat_append_eq_mul_add, BitVec.ofNat_eq_ofNat, BitVec.toNat_ofNat]
  omega

@[simp] theorem unitField_commandWord (u f : BitVec 4) (a : BitVec 8) :
    unitField (commandWord u f a) = u := by
  apply BitVec.eq_of_toNat_eq
  rw [unitField, BitVec.extractLsb'_toNat, toNat_commandWord, Nat.shiftRight_eq_div_pow]
  omega

@[simp] theorem funcField_commandWord (u f : BitVec 4) (a : BitVec 8) :
    funcField (commandWord u f a) = f := by
  apply BitVec.eq_of_toNat_eq
  rw [funcField, BitVec.extractLsb'_toNat, toNat_commandWord, Nat.shiftRight_eq_div_pow]
  omega

@[simp] theorem zeroField_commandWord (u f : BitVec 4) (a : BitVec 8) :
    zeroField (commandWord u f a) = 0 := by
  apply BitVec.eq_of_toNat_eq
  rw [zeroField, BitVec.extractLsb'_toNat, toNat_commandWord, Nat.shiftRight_eq_div_pow]
  change _ = 0
  omega

@[simp] theorem argField_commandWord (u f : BitVec 4) (a : BitVec 8) :
    argField (commandWord u f a) = a := by
  apply BitVec.eq_of_toNat_eq
  rw [argField, BitVec.extractLsb'_toNat, toNat_commandWord, Nat.shiftRight_eq_div_pow]
  omega

/-- R72: an immediate that fits survives ARG's eight bits. -/
theorem toNat_ofNat_of_klenFits {klen : Nat} (h : klenFits klen = true) :
    (BitVec.ofNat 8 klen).toNat = klen := by
  have hle : klen ≤ 255 := by simpa [klenFits] using h
  exact Nat.mod_eq_of_lt (by omega)

theorem decode_encode {i : Instr} (h : i.wf = true) : decode (encode i) = .ok i := by
  cases i with
  | ksLoad klen => simp [decode, encode, -BitVec.toNat_ofNat, toNat_ofNat_of_klenFits h]
  | ksInit klen => simp [decode, encode, -BitVec.toNat_ofNat, toNat_ofNat_of_klenFits h]
  | _ => rfl

theorem step_command {s : State} {w : Word} {i : Instr} {rest : List HostEvent}
    (hp : s.pending = .wr (.cmd w) :: rest) (hd : decode w = .ok i) :
    step s = returned (exec i (s.setPending rest)) := by
  rw [step_event hp, event_cmd, issue_of_decode hd]

theorem withFetchWord_pending (s : State) (w : Word) :
    (s.withFetchWord 32 w.toNat).pending = .wr (.cmd w) :: s.pending := by
  rw [State.withFetchWord, State.setPending_pending, Nat.mod_eq_of_lt w.isLt, BitVec.ofNat_toNat,
    BitVec.setWidth_eq]

/-- Settles O7: `step_command` twice, the second time for the word `withFetchWord` puts first in the queue. -/
theorem stepRunsTheIssuedCommand : Obligations.StepRunsTheIssuedCommand :=
  ⟨fun _ _ _ _ hp hd => step_command hp hd,
   fun s _ hwf => step_command (withFetchWord_pending s _) (decode_encode hwf),
   fun _ => rfl⟩

end Sys2Proof.Machine
end

section
/-! PROOF. The state after the hardware reset, for any contents of the data registers (R43). -/

namespace Sys2Proof.Machine

/-- Settles O47: with no flag set the invariants are those of a state without a key, and the commands that need a
key or a digest are not ready. -/
theorem resetStateMeetsInvariants : Obligations.ResetStateMeetsInvariants := fun _ =>
  ⟨.of_no_key rfl rfl (Nat.zero_le 5), status_eq_zero rfl rfl rfl rfl, exec_desEnc_notReady rfl,
    exec_shaBlock_notReady rfl, exec_ksStep_notReady rfl⟩

end Sys2Proof.Machine
end

section
/-! PROOF. From a state that meets the invariants every event completes (R60, R312), layer by layer: command,
issue, event, step. -/

namespace Sys2Proof.Machine

/-- R26: the one command that could stop needs KSRND above 16. -/
theorem exec_completes {s : State} (h : Inv s) (i : Instr) : ∃ t, exec i s = .next t := by
  obtain ht | ⟨-, -, hr⟩ := exec_next_or_outOfRange i s
  · exact ht
  · exact absurd h.ksrnd_le (Nat.not_le.mpr hr)

theorem issue_completes {s : State} (h : Inv s) (w : Word) : ∃ t, issue w s = .next t := by
  cases hd : decode w with
  | ok i => rw [issue_of_decode hd]; exact exec_completes h i
  | error _ => exact ⟨_, issue_of_illegal hd s⟩

/-- R60: only a write to CMD starts a command; every other event completes in any state. -/
theorem event_completes {s : State} (h : Inv s) (e : HostEvent) : ∃ t, event e s = .next t := by
  cases e with
  | rd rid => exact ⟨_, event_rd rid s⟩
  | reset => exact ⟨_, event_reset s⟩
  | resetDuring w => exact ⟨_, event_resetDuring w s⟩
  | wr write =>
    cases hc : write.command? with
    | none => exact ⟨_, event_store hc s⟩
    | some w =>
      obtain rfl := RegWrite.command?_eq_some hc
      obtain ⟨t, ht⟩ := issue_completes h w
      exact ⟨t.answer .done, by rw [event_cmd, ht, returned_next]⟩

/-- Settles O48: an idle step always completes; any other takes one event, by `event_completes`. -/
theorem everyEventCompletes : Obligations.EveryEventCompletes := by
  intro s h
  cases hp : s.pending with
  | nil => exact ⟨s, step_idle hp⟩
  | cons e rest =>
    rw [SafeStep, step_event hp]
    exact event_completes (h.setPending rest) e

end Sys2Proof.Machine
end

section
/-! PROOF. The decoder and the encoder are inverse to each other (R70 to R73): a legal word is its four fields, and
the decoder reads each of them. -/

namespace Sys2Proof.Machine

/-- Settles O1: the encoder's fields are read back one by one. -/
theorem decodeOfEncodeIsIdentity : Obligations.DecodeOfEncodeIsIdentity := fun _ => decode_encode

/-- R70: a word whose ZERO field is 0 is the command word of its other three fields. -/
theorem eq_commandWord {w : Word} {u f : Nat} (hz : zeroField w = 0) (hu : (unitField w).toNat = u)
    (hf : (funcField w).toNat = f) : w = commandWord (BitVec.ofNat 4 u) (BitVec.ofNat 4 f) (argField w) := by
  subst hu hf
  apply BitVec.eq_of_toNat_eq
  have hz := congrArg BitVec.toNat hz
  have hw := w.isLt
  simp only [toNat_commandWord, unitField, funcField, zeroField, argField, BitVec.extractLsb'_toNat,
    Nat.shiftRight_eq_div_pow, BitVec.ofNat_eq_ofNat, BitVec.toNat_ofNat] at hz ⊢
  omega

theorem zeroField_of_decode {w : Word} {i : Instr} (h : decode w = .ok i) : zeroField w = 0 := by
  by_contra hz
  rw [decode, if_pos hz] at h
  cases h

theorem withoutArg_eq_ok {w : Word} {c i : Instr} : withoutArg w c = .ok i ↔ argField w = 0 ∧ c = i := by
  by_cases ha : argField w = 0
  · rw [withoutArg, if_pos ha]
    simp [ha]
  · rw [withoutArg, if_neg ha]
    simp only [ha, reduceCtorEq, false_and]

theorem klenFits_toNat (a : BitVec 8) : klenFits a.toNat = true := by
  have := a.isLt
  exact decide_eq_true (by omega)

/-- R71: each arm of the decoder knows UNIT and FUNC, and takes ARG for 0 or for the immediate; with ZERO that is
the whole word. -/
theorem wf_and_encode_of_decode {w : Word} {i : Instr} (h : decode w = .ok i) : i.wf = true ∧ encode i = w := by
  have hz := zeroField_of_decode h
  rw [decode, if_neg (not_not.mpr hz)] at h
  split at h
  case h_12 => split at h <;> cases h
  all_goals
    rename_i hu hf
    have hw := eq_commandWord hz hu hf
  case h_3 | h_4 =>
    cases h
    exact ⟨klenFits_toNat _, by simpa [encode] using hw.symm⟩
  all_goals
    obtain ⟨ha, rfl⟩ := withoutArg_eq_ok.mp h
    rw [ha] at hw
    exact ⟨rfl, hw.symm⟩

/-- Settles O2: arm by arm of the decoder. -/
theorem encodeOfDecodeIsIdentity : Obligations.EncodeOfDecodeIsIdentity := fun _ _ => wf_and_encode_of_decode

/-- R73: the legal words are the encodings of the well-formed commands. -/
theorem exists_decode_iff {w : Word} : (∃ i, decode w = .ok i) ↔ ∃ i : Instr, i.wf = true ∧ encode i = w :=
  ⟨fun ⟨i, h⟩ => ⟨i, wf_and_encode_of_decode h⟩, fun ⟨i, hwf, hw⟩ => ⟨i, hw ▸ decode_encode hwf⟩⟩

end Sys2Proof.Machine
end

section
/-! PROOF. The rows of the opcode map (R73): a word that selects one is the encoding of a command of the row. -/

namespace Sys2Proof.Machine

theorem row_mem_opcodeMap (i : Instr) : i.row ∈ opcodeMap := by
  cases i with
  | ksLoad klen => exact (by decide : Instr.row (.ksLoad 0) ∈ opcodeMap)
  | ksInit klen => exact (by decide : Instr.row (.ksInit 0) ∈ opcodeMap)
  | _ => decide

/-- R73: `Laws.EncodesToRow`, for every command. -/
theorem encode_selects : ∀ {i : Instr}, i.wf = true → i.row.selects (encode i)
  | .sysNop => Laws.EncodesToRow.sysNop
  | .sysReset => Laws.EncodesToRow.sysReset
  | .ksLoad klen => Laws.EncodesToRow.ksLoad klen
  | .ksInit klen => Laws.EncodesToRow.ksInit klen
  | .ksStep => Laws.EncodesToRow.ksStep
  | .desEnc => Laws.EncodesToRow.desEnc
  | .desDec => Laws.EncodesToRow.desDec
  | .shaInit => Laws.EncodesToRow.shaInit
  | .shaBlock => Laws.EncodesToRow.shaBlock
  | .rsaMul => Laws.EncodesToRow.rsaMul
  | .rsaExp => Laws.EncodesToRow.rsaExp

/-- The full mask leaves the one word that the pattern is. -/
theorem selects_full_iff {p w : Word} : (OpcodeRow.mk p 0xFFFFFFFF).selects w ↔ w = p := by
  rw [OpcodeRow.selects, show (0xFFFFFFFF : Word) = BitVec.allOnes 32 from rfl, BitVec.and_allOnes]

/-- The other mask leaves UNIT, FUNC and ZERO, and drops ARG. -/
theorem and_argMask (w : Word) : w &&& (0xFFFFFF00 : Word) = w >>> 8 <<< 8 := by
  have hmask : ∀ j : Fin 32, (0xFFFFFF00 : Word)[j] = decide (8 ≤ j.val) := by decide
  ext j hj
  have hj' : (0xFFFFFF00 : Word)[j] = decide (8 ≤ j) := hmask ⟨j, hj⟩
  rw [BitVec.getElem_and, hj']
  by_cases h8 : 8 ≤ j
  · simp [h8, BitVec.getLsbD_eq_getElem hj, Nat.not_lt.mpr h8]
  · simp [h8, Nat.lt_of_not_le h8]

/-- A word that agrees with a command word outside ARG is one, with its own ARG. -/
theorem eq_commandWord_of_and_argMask {u f : BitVec 4} {w : Word}
    (h : w &&& (0xFFFFFF00 : Word) = commandWord u f 0) : w = commandWord u f (argField w) := by
  have h := congrArg BitVec.toNat (and_argMask w ▸ h)
  have hw := w.isLt
  apply BitVec.eq_of_toNat_eq
  simp only [toNat_commandWord, argField, BitVec.extractLsb'_toNat, BitVec.toNat_shiftLeft,
    BitVec.toNat_ushiftRight, Nat.shiftRight_eq_div_pow, Nat.shiftLeft_eq, BitVec.ofNat_eq_ofNat,
    BitVec.toNat_ofNat] at h ⊢
  omega

/-- R73: what a word that selects the row of a command encodes, which is a command of that row. -/
theorem exists_encode_of_selects {i : Instr} {w : Word} (h : i.row.selects w) :
    ∃ j : Instr, j.row = i.row ∧ j.wf = true ∧ encode j = w := by
  cases i with
  | ksLoad klen =>
    refine ⟨.ksLoad (argField w).toNat, rfl, klenFits_toNat _, ?_⟩
    simpa [encode] using (eq_commandWord_of_and_argMask (u := 1) (f := 0) h).symm
  | ksInit klen =>
    refine ⟨.ksInit (argField w).toNat, rfl, klenFits_toNat _, ?_⟩
    simpa [encode] using (eq_commandWord_of_and_argMask (u := 1) (f := 1) h).symm
  | _ => exact ⟨_, rfl, rfl, (selects_full_iff.mp h).symm⟩

theorem exists_row_of_mem {r : OpcodeRow} (h : r ∈ opcodeMap) : ∃ i : Instr, i.row = r := by
  simp only [opcodeMap, List.mem_cons, List.not_mem_nil, or_false] at h
  obtain h | h | h | h | h | h | h | h | h | h | h := h <;> exact ⟨_, h.symm⟩

theorem decode_of_selects {w : Word} {r : OpcodeRow} (hr : r ∈ opcodeMap) (h : r.selects w) :
    ∃ i, decode w = .ok i ∧ i.row = r := by
  obtain ⟨i, rfl⟩ := exists_row_of_mem hr
  obtain ⟨j, hrow, hwf, rfl⟩ := exists_encode_of_selects h
  exact ⟨j, decode_encode hwf, hrow⟩

/-- R73: a word that selects two rows decodes to a command of both, so they are one. -/
theorem eq_of_selects {w : Word} {r r' : OpcodeRow} (hr : r ∈ opcodeMap) (hr' : r' ∈ opcodeMap)
    (h : r.selects w) (h' : r'.selects w) : r = r' := by
  obtain ⟨i, hi, rfl⟩ := decode_of_selects hr h
  obtain ⟨j, hj, rfl⟩ := decode_of_selects hr' h'
  cases hi.symm.trans hj
  rfl

theorem opcodeMap_nodup : opcodeMap.Nodup := by decide

/-- Settles O3: one direction is `encode_selects`, the other `decode_of_selects`, and the rows are disjoint because
the eleven rows differ and a word decodes to one command. -/
theorem wordSelectsItsRowExactly : Obligations.WordSelectsItsRowExactly := by
  refine ⟨fun w i h => ?_, fun _ _ => decode_of_selects, rfl, rfl, fun _ => ⟨rfl, rfl⟩, rfl, rfl, rfl, rfl, rfl,
    rfl, rfl, rfl, opcodeMap_nodup.imp_of_mem fun hr hr' hne w ⟨h, h'⟩ => hne (eq_of_selects hr hr' h h')⟩
  obtain ⟨hwf, rfl⟩ := wf_and_encode_of_decode h
  exact ⟨row_mem_opcodeMap i, encode_selects hwf⟩

end Sys2Proof.Machine
end

section
/-! PROOF. The number of legal words (R76): one for each well-formed command. -/

namespace Sys2Proof.Machine

/-- The well-formed commands: nine without an immediate, and two at each of its 256 values (R72, R73). -/
def wellFormedInstrs : List Instr :=
  [.sysNop, .sysReset, .ksStep, .desEnc, .desDec, .shaInit, .shaBlock, .rsaMul, .rsaExp] ++
    (List.range 256).map .ksLoad ++ (List.range 256).map .ksInit

theorem mem_wellFormedInstrs {i : Instr} : i ∈ wellFormedInstrs ↔ i.wf = true := by
  cases i <;> simp [wellFormedInstrs, Instr.wf, klenFits, Nat.lt_succ_iff]

theorem wellFormedInstrs_nodup : wellFormedInstrs.Nodup := by
  have hload : ((List.range 256).map Instr.ksLoad).Nodup :=
    List.nodup_range.map fun _ _ h => Instr.ksLoad.inj h
  have hinit : ((List.range 256).map Instr.ksInit).Nodup :=
    List.nodup_range.map fun _ _ h => Instr.ksInit.inj h
  simp [wellFormedInstrs, List.nodup_append, hload, hinit]

theorem wellFormedInstrs_length : wellFormedInstrs.length = 521 := by simp [wellFormedInstrs]

theorem encode_inj {i j : Instr} (hi : i.wf = true) (hj : j.wf = true) (h : encode i = encode j) : i = j := by
  have := decode_encode hi
  rw [h, decode_encode hj] at this
  exact (Except.ok.inj this).symm

/-- Settles O4: the encodings of the well-formed commands, which the encoder keeps apart. -/
theorem legalWordsNumber521 : Obligations.LegalWordsNumber521 := by
  refine ⟨wellFormedInstrs.map encode, ?nodup, ?length, fun w => ?mem⟩
  case nodup =>
    exact wellFormedInstrs_nodup.map_on fun i hi j hj =>
      encode_inj (mem_wellFormedInstrs.mp hi) (mem_wellFormedInstrs.mp hj)
  case length => rw [List.length_map, wellFormedInstrs_length]
  case mem => simp only [List.mem_map, mem_wellFormedInstrs, exists_decode_iff]

end Sys2Proof.Machine
end

section
/-! PROOF. The illegal words by their fields, and the write of one to CMD (R75, R276). -/

namespace Sys2Proof.Machine

/-- R75: UNIT is reserved, FUNC is not listed for its UNIT, ZERO is not 0, or ARG is not 0 where the command takes no
immediate. -/
def IllegalFields (w : Word) : Prop :=
  5 ≤ (unitField w).toNat ∨
    ((unitField w).toNat = 0 ∧ 2 ≤ (funcField w).toNat) ∨
    ((unitField w).toNat = 1 ∧ 3 ≤ (funcField w).toNat) ∨
    ((unitField w).toNat = 2 ∧ 2 ≤ (funcField w).toNat) ∨
    ((unitField w).toNat = 3 ∧ 2 ≤ (funcField w).toNat) ∨
    ((unitField w).toNat = 4 ∧ 2 ≤ (funcField w).toNat) ∨
    zeroField w ≠ 0 ∨
    (argField w ≠ 0 ∧ ¬ ((unitField w).toNat = 1 ∧ (funcField w).toNat ≤ 1))

theorem withoutArg_illegal_iff {w : Word} {c : Instr} : (∀ i, withoutArg w c ≠ .ok i) ↔ argField w ≠ 0 := by
  simp [withoutArg_eq_ok]

/-- R75: each arm of the decoder refuses a nonzero ARG or, with an immediate, nothing; a pair of UNIT and FUNC
without an arm of its own meets one of the first six clauses. -/
theorem no_decode_iff (w : Word) : (∀ i, decode w ≠ .ok i) ↔ IllegalFields w := by
  by_cases hz : zeroField w = 0
  · rw [decode, if_neg (not_not.mpr hz)]
    split
    case h_12 =>
      refine iff_of_true (fun i => ?_) ?_
      · split <;> simp
      · unfold IllegalFields
        grind
    case h_3 hu hf | h_4 hu hf => simp [IllegalFields, hz, hu, hf]
    all_goals
      rename_i hu hf
      simp [IllegalFields, hz, hu, hf, withoutArg_illegal_iff]
  · rw [decode, if_pos hz]
    refine iff_of_true (by simp) ?_
    simp only [IllegalFields, ne_eq, hz, not_false_eq_true, true_or, or_true]

/-- Settles O5: `no_decode_iff`, and an event that writes such a word raises IllegalCommand. -/
theorem illegalWordsRaiseIllegalCommand : Obligations.IllegalWordsRaiseIllegalCommand := by
  refine ⟨no_decode_iff, fun s w rest hw hp => ?_⟩
  rw [step_event hp, event_cmd, issue_of_no_decode hw]
  rfl

/-- Settles O6: each illegal word meets a clause of R75. -/
theorem specWordsDecode : Obligations.SpecWordsDecode := by
  refine ⟨rfl, rfl, rfl, rfl, rfl, rfl, rfl, rfl, rfl, rfl, rfl, rfl, fun w hw => (no_decode_iff w).mpr ?_⟩
  simp only [List.mem_cons, List.not_mem_nil, or_false] at hw
  obtain rfl | rfl | rfl | rfl | rfl | rfl | rfl | rfl | rfl | rfl | rfl := hw
  all_goals
    unfold IllegalFields
    decide

end Sys2Proof.Machine
end

section
/-! PROOF. The schedule that a load began stays its key's (R114): no event other than a load or a reset can do more
to it than derive the next round. -/

namespace Sys2Proof.Machine

/-- A key is loaded (R27), and everything derived so far belongs to it: it is `k` (R114). -/
structure HoldsKey (k : Block) (s : State) : Prop where
  loaded : s.ksl = true
  scheduled : ScheduledFrom k s

theorem HoldsKey.of_sameSchedule {k : Block} {s t : State} (h : HoldsKey k s) (hst : SameSchedule s t) :
    HoldsKey k t where
  loaded := hst.ksl.trans h.loaded
  scheduled := h.scheduled.of_sameSchedule hst

theorem holdsKey_of_load {i : Instr} {s t : State} (hi : i = .ksInit 8 ∨ i = .ksLoad 8)
    (ht : exec i s = .next t) : HoldsKey s.key t := by
  obtain rfl | rfl := hi
  · cases ht
    exact ⟨rfl, scheduledFrom_ksInitDone s⟩
  · cases ht
    exact ⟨rfl, scheduledFrom_ksLoadDone s⟩

theorem Outcomes.keeps_holdsKey {k : Block} {i : Instr} {s t : State} (ho : Outcomes s i t)
    (hinit : i ≠ .ksInit 8) (hload : i ≠ .ksLoad 8) (hreset : i ≠ .sysReset) (h : HoldsKey k s) :
    HoldsKey k t := by
  cases ho with
  | ksInit => exact absurd rfl hinit
  | ksLoad => exact absurd rfl hload
  | sysReset => exact absurd rfl hreset
  | ksStep j hl hr =>
    have hnext : HoldsKey k (deriveRound j s) := ⟨hl, scheduledFrom_deriveRound h.scheduled hr⟩
    exact hnext.of_sameSchedule ⟨rfl, rfl, rfl, rfl, rfl⟩
  | _ => exact h.of_sameSchedule ⟨rfl, rfl, rfl, rfl, rfl⟩

theorem issue_keeps_holdsKey {k : Block} {w : Word} {s t : State} (ht : issue w s = .next t)
    (hw : decode w ≠ .ok (.ksInit 8) ∧ decode w ≠ .ok (.ksLoad 8) ∧ decode w ≠ .ok .sysReset)
    (h : HoldsKey k s) : HoldsKey k t := by
  obtain ⟨i, hd, hi⟩ | ⟨-, rfl⟩ := issue_cases ht
  · rw [hd] at hw
    obtain ⟨hinit, hload, hreset⟩ := hw
    exact (exec_outcomes hi).keeps_holdsKey (by simpa using hinit) (by simpa using hload)
      (by simpa using hreset) h
  · exact h.of_sameSchedule ⟨rfl, rfl, rfl, rfl, rfl⟩

theorem HoldsKey.answer {k : Block} {s : State} (h : HoldsKey k s) (r : Reply) : HoldsKey k (s.answer r) :=
  h.of_sameSchedule ⟨rfl, rfl, rfl, rfl, rfl⟩

theorem event_keeps_holdsKey {k : Block} {e : HostEvent} {s t : State} (ht : event e s = .next t)
    (he : e.KeepsKey) (h : HoldsKey k s) : HoldsKey k t := by
  obtain ⟨rid, -, rfl⟩ | ⟨w, u, rfl, hu, rfl⟩ | ⟨write, -, -, rfl⟩ | ⟨rfl | ⟨w, rfl⟩, -⟩ := event_cases ht
  · exact h.answer _
  · exact (issue_keeps_holdsKey hu (he w rfl) h).answer _
  · exact (h.of_sameSchedule (sameSchedule_store s write)).answer _
  · exact he.elim
  · exact he.elim

/-- A run that goes on went on after its first event. -/
theorem runEvents_cons_eq_next {e : HostEvent} {es : List HostEvent} {s u : State}
    (h : runEvents (e :: es) s = .next u) : ∃ t, event e s = .next t ∧ runEvents es t = .next u := by
  cases he : event e s with
  | next t => exact ⟨t, rfl, runEvents_cons he es ▸ h⟩
  | fault f => simp [runEvents, he] at h
  | refused r => simp [runEvents, he] at h

theorem runEvents_keeps_holdsKey {k : Block} {es : List HostEvent} {s u : State} (hes : ∀ e ∈ es, e.KeepsKey)
    (hu : runEvents es s = .next u) (h : HoldsKey k s) : HoldsKey k u := by
  induction es generalizing s with
  | nil => cases hu; exact h
  | cons e es ih =>
    obtain ⟨t, ht, hrest⟩ := runEvents_cons_eq_next hu
    exact ih (fun e' he' => hes e' (List.mem_cons_of_mem e he')) hrest
      (event_keeps_holdsKey ht (hes e List.mem_cons_self) h)

/-- Settles O29: a load establishes `HoldsKey`, and each later event keeps it. -/
theorem loadedScheduleBelongsToItsKey : Obligations.LoadedScheduleBelongsToItsKey :=
  fun _ _ _ _ _ hi ht hes hu =>
    have ⟨hloaded, hscheduled⟩ := runEvents_keeps_holdsKey hes hu (holdsKey_of_load hi ht)
    ⟨hloaded, hscheduled⟩

end Sys2Proof.Machine
end

section
/-! PROOF. The closed form of the schedule (R105) and the full turn (R106), and with them what each command of the KS
unit writes (R108, R110 to R112). -/

namespace Sys2Proof.Machine

/-- R105: a round key is PC-2 of the halves of the closed form. -/
theorem roundKeyOf_eq (k : Block) {r : Nat} (h : r ≤ 16) :
    roundKeyOf k r = permute pc2 (rotl (permutedKey k).c (shiftSum r % 28) ++
      rotl (permutedKey k).d (shiftSum r % 28)) := by
  rw [roundKeyOf, halvesAfter_eq k h, selectRoundKey]

/-- R106: the shifts of sixteen rounds add up to 28, one full turn of a half. -/
theorem halvesAfter_sixteen (k : Block) : halvesAfter k 16 = permutedKey k := by
  have hturn : shiftSum 16 % 28 = 0 := by decide
  rw [halvesAfter_eq k (Nat.le_refl 16), hturn, rotl_zero, rotl_zero]

/-- Settles O23: `halvesAfter_eq`, `roundKeyOf_eq` and the full turn. -/
theorem halvesClosedForm : Obligations.HalvesClosedForm := by
  refine fun k => ⟨fun r _ hr => ?_, halvesAfter_sixteen k⟩
  have hcd := halvesAfter_eq k hr
  exact ⟨congrArg Halves.c hcd, congrArg Halves.d hcd, roundKeyOf_eq k hr⟩

/-- Settles O21: what KS.LOAD writes, with the halves after the full turn. -/
theorem ksLoadDerivesWholeSchedule : Obligations.KsLoadDerivesWholeSchedule := by
  refine fun s => ⟨?_, fun _ h => exec_ksLoad_of_ne h s⟩
  rw [exec_ksLoad, ksLoadDone, halvesAfter_sixteen]
  rfl

/-- Settles O18: what KS.INIT writes, with PC-1 spelled out. -/
theorem ksInitLoadsPermutedKey : Obligations.KsInitLoadsPermutedKey :=
  fun s => ⟨exec_ksInit s, fun _ h => exec_ksInit_of_ne h s⟩

/-- Settles O19: the three outcomes of KS.STEP, with the derived round spelled out. -/
theorem ksStepDerivesNextRound : Obligations.KsStepDerivesNextRound :=
  fun _ => ⟨exec_ksStep_notReady, exec_ksStep_sequenceError, exec_ksStep_derives⟩

end Sys2Proof.Machine
end

section
/-! PROOF. KS.LOAD against KS.INIT and sixteen KS.STEPs (R113): the state between two of the steps. -/

namespace Sys2Proof.Machine

/-- What KS.INIT and `r` KS.STEPs leave: the halves after round `r`, the first `r` round keys, and the round keys of
before in the other places. -/
def ksStepsDone (s : State) (r : Nat) : State :=
  { s with
    c := (halvesAfter s.key r).c, d := (halvesAfter s.key r).d
    rk := Vector.ofFn fun i => if i.val < r then roundKeyOf s.key (i.val + 1) else s.rk[i]
    ksrnd := BitVec.ofNat 5 r, ksl := true, err := 0 }

theorem ksStepsDone_zero (s : State) : ksStepsDone s 0 = ksInitDone s := by
  simp [ksStepsDone, ksInitDone, halvesAfter]

theorem ksStepsDone_sixteen (s : State) : ksStepsDone s 16 = ksLoadDone s := by
  simp [ksStepsDone, ksLoadDone, scheduleOf]

/-- R110: the next KS.STEP derives one round more. -/
theorem deriveRound_ksStepsDone (s : State) (i : Fin 16) :
    (deriveRound i (ksStepsDone s i)).setErr 0 = ksStepsDone s (i + 1) := by
  have hrk : (ksStepsDone s i).rk.set i (roundKeyOf s.key (i + 1)) = (ksStepsDone s (i + 1)).rk := by
    ext j hj
    simp only [ksStepsDone, Vector.getElem_set, Vector.getElem_ofFn, Fin.getElem_fin]
    by_cases hij : i.val = j
    · simp [← hij]
    · have hlt : j < i.val + 1 ↔ j < i.val := by omega
      simp [hij, hlt]
  change { ksStepsDone s (i + 1) with rk := (ksStepsDone s i).rk.set i (roundKeyOf s.key (i + 1)) } = _
  rw [hrk]

theorem exec_ksStep_ksStepsDone (s : State) (i : Fin 16) :
    exec .ksStep (ksStepsDone s i) = .next (ksStepsDone s (i + 1)) := by
  have hr : (ksStepsDone s i).ksrnd.toNat = i.val := Nat.mod_eq_of_lt (by omega)
  rw [exec_ksStep_derives i rfl hr, deriveRound_ksStepsDone]

theorem execSeq_cons {i : Instr} {s t : State} (h : exec i s = .next t) (is : List Instr) :
    execSeq (i :: is) s = execSeq is t := by simp [execSeq, h]

theorem execSeq_ksSteps (s : State) {r n : Nat} (h : r + n ≤ 16) :
    execSeq (List.replicate n .ksStep) (ksStepsDone s r) = .next (ksStepsDone s (r + n)) := by
  induction n generalizing r with
  | zero => rfl
  | succ n ih =>
    have hstep := exec_ksStep_ksStepsDone s ⟨r, by omega⟩
    rw [List.replicate_succ, execSeq_cons hstep, ih (r := r + 1) (by omega), Nat.add_right_comm, Nat.add_assoc]

/-- Settles O22: sixteen steps from what KS.INIT leaves end in what KS.LOAD leaves. -/
theorem loadEqualsInitAndSixteenSteps : Obligations.LoadEqualsInitAndSixteenSteps := by
  refine fun s => ⟨?_, fun klen h => (exec_ksLoad_of_ne h s).trans (exec_ksInit_of_ne h s).symm⟩
  rw [execSeq_cons (exec_ksInit s), ← ksStepsDone_zero, execSeq_ksSteps s (Nat.le_refl 16), exec_ksLoad,
    ← ksStepsDone_sixteen]

end Sys2Proof.Machine
end

section
/-! PROOF. Which key bit a bit of the schedule is (R117), and so which key bits the schedule ignores (R115). -/

namespace Sys2Proof.Machine

theorem desBit_append_left {n m : Nat} (a : BitVec n) (b : BitVec m) {i : Nat} (hi : 1 ≤ i) (hn : i ≤ n) :
    desBit (a ++ b) i = desBit a i := by
  have hlt : i - 1 < n := by omega
  simp [desBit, BitVec.getMsbD_append, hlt]

theorem desBit_append_right {n m : Nat} (a : BitVec n) (b : BitVec m) {i : Nat} (hi : 1 ≤ i) :
    desBit (a ++ b) (n + i) = desBit b i := by
  have hle : ¬ n + i - 1 < n := by omega
  have hidx : n + i - 1 - n = i - 1 := by omega
  simp [desBit, BitVec.getMsbD_append, hle, hidx]

/-- Bit `i` of a half after `r` rounds stands at place `shifted r i` of the permuted key's half (R105). -/
def shifted (r i : Nat) : Nat := (i - 1 + shiftSum r) % 28 + 1

theorem shifted_le (r i : Nat) : shifted r i ≤ 28 := Nat.mod_lt _ (by decide)

theorem desBit_rotl_shiftSum (v : KeyHalf) (r : Nat) {i : Nat} (hi : 1 ≤ i) (h28 : i ≤ 28) :
    desBit (rotl v (shiftSum r % 28)) i = desBit v (shifted r i) := by
  rw [desBit_rotl v _ hi h28, Nat.add_mod_mod, shifted]

theorem desBit_permutedKey_c (k : Block) {i : Nat} (hi : 1 ≤ i) (h28 : i ≤ 28) :
    desBit (permutedKey k).c i = desBit (permute pc1 k) i := by
  rw [permutedKey, desBit_desSlice _ (by decide) (by decide) hi h28, Nat.add_sub_cancel_left]

theorem desBit_permutedKey_d (k : Block) {i : Nat} (hi : 1 ≤ i) (h28 : i ≤ 28) :
    desBit (permutedKey k).d i = desBit (permute pc1 k) (28 + i) := by
  rw [permutedKey, desBit_desSlice _ (by decide) (by decide) hi h28]
  congr 1
  omega

/-- R117: a bit of `C_r ‖ D_r` is a bit of `C_0 ‖ D_0`, in the same half. -/
theorem desBit_rotatedHalves (k : Block) (r : Nat) {p q : Nat} (hp : 1 ≤ p) (hp56 : p ≤ 56)
    (hleft : p ≤ 28 → q = shifted r p) (hright : 29 ≤ p → q = 28 + shifted r (p - 28)) :
    desBit (rotl (permutedKey k).c (shiftSum r % 28) ++ rotl (permutedKey k).d (shiftSum r % 28)) p =
      desBit (permute pc1 k) q := by
  have hs (i : Nat) : 1 ≤ shifted r i := Nat.succ_pos _
  by_cases h28 : p ≤ 28
  · rw [desBit_append_left _ _ hp h28, desBit_rotl_shiftSum _ r hp h28,
      desBit_permutedKey_c k (hs p) (shifted_le r p), hleft h28]
  · obtain ⟨i, rfl⟩ : ∃ i, p = 28 + i := ⟨p - 28, by omega⟩
    have hi : 1 ≤ i := by omega
    rw [desBit_append_right _ _ hi, desBit_rotl_shiftSum _ r hi (by omega),
      desBit_permutedKey_d k (hs i) (shifted_le r i), hright (by omega), Nat.add_sub_cancel_left]

theorem pc2_entry_range {j p : Nat} (h : pc2.toList[j]? = some p) : 1 ≤ p ∧ p ≤ 56 := by
  obtain ⟨hj, rfl⟩ := List.getElem?_eq_some_iff.mp h
  exact pc2_range ⟨j, by simpa using hj⟩

/-- Settles O26: PC-2, the rotation and PC-1 each move bits. -/
theorem roundKeyBitIsOneKeyBit : Obligations.RoundKeyBitIsOneKeyBit := by
  intro k r j p q _ hr hj hj48 hp hleft hright
  obtain ⟨hp1, hp56⟩ := pc2_entry_range hp
  obtain ⟨hq1, hq56⟩ : 1 ≤ q ∧ q - 1 < 56 := by omega
  have hb : pc1.toList[q - 1]? = some pc1[q - 1] := by simp
  refine ⟨pc1[q - 1], hb, ?_⟩
  calc desBit (roundKeyOf k r) j
    _ = desBit (rotl (permutedKey k).c (shiftSum r % 28) ++ rotl (permutedKey k).d (shiftSum r % 28)) p := by
      rw [roundKeyOf_eq k hr, desBit_permute pc2 _ hj hj48 hp]
    _ = desBit (permute pc1 k) q := desBit_rotatedHalves k r hp1 hp56 hleft fun h => by
      rw [hright h, shifted, Nat.sub_sub, Nat.add_assoc]
    _ = desBit k pc1[q - 1] := desBit_permute pc1 k hq1 (by omega) hb

/-- PC-1 names no last bit of a byte (R101, R115). -/
theorem permutedKey_congr {k k' : Block} (h : ∀ i, 1 ≤ i → i ≤ 64 → i % 8 ≠ 0 → desBit k i = desBit k' i) :
    permutedKey k = permutedKey k' := by
  have hcd : permute pc1 k = permute pc1 k' := by
    refine BitVec.eq_of_getMsbD_eq fun j hj => ?_
    obtain ⟨h1, h64, h8⟩ := pc1_range ⟨j, hj⟩
    rw [getMsbD_permute pc1 k hj, getMsbD_permute pc1 k' hj]
    exact h _ h1 h64 h8
  rw [permutedKey, permutedKey, hcd]

theorem roundKeyOf_congr {k k' : Block} (h : permutedKey k = permutedKey k') {r : Nat} (hr : r ≤ 16) :
    roundKeyOf k r = roundKeyOf k' r := by
  rw [roundKeyOf_eq k hr, roundKeyOf_eq k' hr, h]

/-- Settles O24: the round keys are a function of the permuted key. -/
theorem ignoredKeyBits : Obligations.IgnoredKeyBits :=
  fun _ _ h => ⟨permutedKey_congr h, fun _ _ hr => roundKeyOf_congr (permutedKey_congr h) hr⟩

end Sys2Proof.Machine
end

section
/-! PROOF. The complemented key (R116): every operation of the schedule moves bits, so it commutes with complement. -/

namespace Sys2Proof.Machine

theorem permute_pc1_not (k : Block) : permute pc1 (~~~k) = ~~~(permute pc1 k) := by
  refine permute_not pc1 k fun j hj => ?_
  obtain ⟨h1, h64, -⟩ : 1 ≤ pc1[j] ∧ pc1[j] ≤ 64 ∧ _ := pc1_range ⟨j, hj⟩
  omega

theorem permute_pc2_not (cd : BitVec 56) : permute pc2 (~~~cd) = ~~~(permute pc2 cd) := by
  refine permute_not pc2 cd fun j hj => ?_
  obtain ⟨h1, h56⟩ : 1 ≤ pc2[j] ∧ pc2[j] ≤ 56 := pc2_range ⟨j, hj⟩
  omega

theorem permutedKey_not (k : Block) :
    permutedKey (~~~k) = ⟨~~~(permutedKey k).c, ~~~(permutedKey k).d⟩ := by
  rw [permutedKey, permutedKey, permute_pc1_not, desSlice_not _ _ _ (by decide) (by decide),
    desSlice_not _ _ _ (by decide) (by decide)]

theorem roundKeyOf_not (k : Block) {r : Nat} (hr : r ≤ 16) : roundKeyOf (~~~k) r = ~~~(roundKeyOf k r) := by
  rw [roundKeyOf_eq _ hr, roundKeyOf_eq _ hr, permutedKey_not, rotl_not, rotl_not, ← BitVec.not_append,
    permute_pc2_not]

theorem permute_zeros {n m : Nat} (table : Vector Nat m) : permute table (0 : BitVec n) = 0 := by
  refine BitVec.eq_of_getMsbD_eq fun j hj => ?_
  rw [getMsbD_permute table 0 hj]
  simp [desBit]

theorem rotl_zeros {n : Nat} (s : Nat) : rotl (0 : BitVec n) s = 0 := by
  refine BitVec.eq_of_getMsbD_eq fun i hi => ?_
  rw [getMsbD_rotl 0 s i hi]
  simp

theorem permutedKey_zero : permutedKey 0 = ⟨0, 0⟩ := by
  rw [permutedKey, permute_zeros]
  rfl

theorem roundKeyOf_zero {r : Nat} (hr : r ≤ 16) : roundKeyOf 0x0000000000000000 r = 0x000000000000 := by
  have hcd : (0 : KeyHalf) ++ (0 : KeyHalf) = (0 : BitVec (28 + 28)) := rfl
  rw [roundKeyOf_eq _ hr, permutedKey_zero, rotl_zeros, hcd]
  exact permute_zeros pc2

/-- The key whose bytes are 1 differs from the zero key in ignored bits alone (R115). -/
theorem roundKeyOf_bytes_one {r : Nat} (hr : r ≤ 16) : roundKeyOf 0x0101010101010101 r = 0x000000000000 := by
  have hagree : ∀ i < 65, i % 8 ≠ 0 → desBit (0x0101010101010101 : Block) i = desBit (0 : Block) i := by
    decide
  have hpk : permutedKey 0x0101010101010101 = permutedKey 0 :=
    permutedKey_congr fun i _ h64 h8 => hagree i (by omega) h8
  rw [roundKeyOf_congr hpk hr]
  exact roundKeyOf_zero hr

/-- Settles O25: the last two keys are the complements of the first two. -/
theorem complementedKeyComplementsSchedule : Obligations.ComplementedKeyComplementsSchedule := by
  refine ⟨fun k => ?_, fun r _ hr => ⟨roundKeyOf_zero hr, roundKeyOf_bytes_one hr, ?_, ?_⟩⟩
  · have hcd := permutedKey_not k
    exact ⟨congrArg Halves.c hcd, congrArg Halves.d hcd, fun r _ hr => roundKeyOf_not k hr⟩
  · have hnot := roundKeyOf_not 0x0000000000000000 hr
    rwa [roundKeyOf_zero hr] at hnot
  · have hnot := roundKeyOf_not 0x0101010101010101 hr
    rwa [roundKeyOf_bytes_one hr] at hnot

end Sys2Proof.Machine
end

section
/-! PROOF. A write of KEY and the load after it (R109). -/

namespace Sys2Proof.Machine

/-- Settles O27: storing KEY keeps every other register, and a load reads KEY when it executes. -/
theorem keyWriteKeepsDerivedState : Obligations.KeyWriteKeepsDerivedState := by
  intro s v rest hp
  refine ⟨_, (step_event hp).trans (event_store rfl _), rfl, rfl, rfl, rfl, rfl, rfl, rfl, rfl, rfl, ?_⟩
  rintro i (rfl | rfl)
  · exact ⟨_, exec_ksInit _, rfl, rfl, by simp⟩
  · refine ⟨_, exec_ksLoad _, ?_, ?_, fun _ j => ?_⟩
    · exact congrArg Halves.c (halvesAfter_sixteen v)
    · exact congrArg Halves.d (halvesAfter_sixteen v)
    · exact (scheduledFrom_ksLoadDone _).rk_eq j j.isLt

end Sys2Proof.Machine
end

section
/-! PROOF. IP and FP undo each other (R131, R132). -/

namespace Sys2Proof.Machine

/-- The table `u` names, at the place each entry of `t` gives, the place of that entry (R132's check). -/
def Undoes {n : Nat} (u t : Vector Nat n) : Prop := ∀ i : Fin n, u.toList[t[i] - 1]? = some (i.val + 1)

theorem fpTable_undoes_ipTable : Undoes fpTable ipTable := by
  unfold Undoes
  decide

theorem ipTable_undoes_fpTable : Undoes ipTable fpTable := by
  unfold Undoes
  decide

theorem Undoes.index_lt {n : Nat} {u t : Vector Nat n} (h : Undoes u t) (i : Fin n) : t[i] - 1 < n := by
  obtain ⟨hlt, -⟩ := List.getElem?_eq_some_iff.mp (h i)
  simpa using hlt

theorem Undoes.getElem {n : Nat} {u t : Vector Nat n} (h : Undoes u t) (i : Fin n) :
    u[t[i] - 1]'(h.index_lt i) = i.val + 1 := by
  obtain ⟨_, hentry⟩ := List.getElem?_eq_some_iff.mp (h i)
  simpa using hentry

/-- R132's check with places counted from 1, as the spec counts them. -/
theorem Undoes.entry {n : Nat} {u t : Vector Nat n} (h : Undoes u t) {j p : Nat} (hj : 1 ≤ j) (hn : j ≤ n)
    (hp : t.toList[j - 1]? = some p) : u.toList[p - 1]? = some j := by
  have hlt : j - 1 < n := by omega
  have hentry : t[j - 1] = p := by simpa [hlt] using hp
  have hundo := h ⟨j - 1, hlt⟩
  rwa [Fin.getElem_fin, hentry, Nat.sub_add_cancel hj] at hundo

/-- Bit `j` goes where `t` names it, and from there back. -/
theorem Undoes.permute_permute {n : Nat} {u t : Vector Nat n} (h : Undoes u t) (v : BitVec n) :
    permute t (permute u v) = v := by
  refine BitVec.eq_of_getMsbD_eq fun j hj => ?_
  have hlt : t[j] - 1 < n := h.index_lt ⟨j, hj⟩
  have hentry : u[t[j] - 1] = j + 1 := h.getElem ⟨j, hj⟩
  rw [getMsbD_permute t _ hj, desBit, getMsbD_permute u v hlt, hentry, desBit, Nat.add_sub_cancel]

/-- Settles O34: the two tables entry by entry, and then bit by bit. -/
theorem finalPermutationUndoesInitial : Obligations.FinalPermutationUndoesInitial :=
  ⟨fun _ _ hj hn hp => fpTable_undoes_ipTable.entry hj hn hp,
   fun _ _ hj hn hp => ipTable_undoes_fpTable.entry hj hn hp,
   fun v => ipTable_undoes_fpTable.permute_permute v⟩

end Sys2Proof.Machine
end

section
/-! PROOF. The slices of a concatenation (R12, R13), by their bits. -/

namespace Sys2Proof.Machine

theorem eq_of_desBit_eq {n : Nat} {v w : BitVec n} (h : ∀ i, 1 ≤ i → i ≤ n → desBit v i = desBit w i) : v = w :=
  BitVec.eq_of_getMsbD_eq fun i hi => by
    simpa [desBit] using h (i + 1) (Nat.succ_pos i) hi

theorem desSlice_append_left {n m : Nat} (a : BitVec n) (b : BitVec m) {i k : Nat} (hi : 1 ≤ i)
    (hk : i + k ≤ n + 1) : desSlice (a ++ b) i k = desSlice a i k := by
  refine eq_of_desBit_eq fun j hj hjk => ?_
  rw [desBit_desSlice _ hi (by omega) hj hjk, desBit_desSlice _ hi hk hj hjk,
    desBit_append_left a b (by omega) (by omega)]

theorem desSlice_append_right {n m : Nat} (a : BitVec n) (b : BitVec m) {i k : Nat} (hi : 1 ≤ i)
    (hk : i + k ≤ m + 1) : desSlice (a ++ b) (n + i) k = desSlice b i k := by
  refine eq_of_desBit_eq fun j hj hjk => ?_
  have hidx : n + i + j - 1 = n + (i + j - 1) := by omega
  rw [desBit_desSlice _ (by omega) (by omega) hj hjk, desBit_desSlice _ hi hk hj hjk, hidx,
    desBit_append_right a b (by omega)]

theorem desSlice_whole {n : Nat} (v : BitVec n) : desSlice v 1 n = v := by
  refine eq_of_desBit_eq fun j hj hn => ?_
  rw [desBit_desSlice v (Nat.le_refl 1) (by omega) hj hn, Nat.add_sub_cancel_left]

theorem desSlice_append_last {n m : Nat} (a : BitVec n) (b : BitVec m) {i : Nat} (hi : i = n + 1) :
    desSlice (a ++ b) i m = b := by
  rw [hi, desSlice_append_right a b (Nat.le_refl 1) (by omega), desSlice_whole]

end Sys2Proof.Machine
end

section
/-! PROOF. The reversed keys undo the block function (R142): a round undoes itself on swapped halves, and the final
swap (R140) hands the second run the halves swapped. -/

namespace Sys2Proof.Machine

/-- The split of R139. -/
def LR.ofBlock (t : Block) : LR := ⟨desSlice t 1 32, desSlice t 33 32⟩

/-- The concatenation that the split takes apart. -/
def LR.toBlock (x : LR) : Block := x.l ++ x.r

/-- The final swap, R140. -/
def LR.swap (x : LR) : LR := ⟨x.r, x.l⟩

@[simp] theorem LR.swap_swap (x : LR) : x.swap.swap = x := rfl

@[simp] theorem LR.ofBlock_toBlock (x : LR) : LR.ofBlock x.toBlock = x := by
  have hl : desSlice (x.l ++ x.r) 1 32 = x.l := by
    rw [desSlice_append_left _ _ (by decide) (by decide), desSlice_whole]
  have hr : desSlice (x.l ++ x.r) (32 + 1) 32 = x.r := by
    rw [desSlice_append_right _ _ (by decide) (by decide), desSlice_whole]
  exact congrArg₂ LR.mk hl hr

@[simp] theorem LR.toBlock_ofBlock (t : Block) : (LR.ofBlock t).toBlock = t := by
  refine eq_of_desBit_eq (n := 32 + 32) fun i hi hn => ?_
  by_cases h32 : i ≤ 32
  · rw [LR.toBlock, desBit_append_left _ _ hi h32, LR.ofBlock,
      desBit_desSlice t (by decide) (by decide) hi h32, Nat.add_sub_cancel_left]
  · obtain ⟨j, rfl⟩ : ∃ j, i = 32 + j := ⟨i - 32, by omega⟩
    have hidx : 33 + j - 1 = 32 + j := by omega
    rw [LR.toBlock, desBit_append_right _ _ (by omega), LR.ofBlock,
      desBit_desSlice t (by decide) (by decide) (by omega) (by omega), hidx]

/-- R139, R140: IP, the split, the rounds, the final swap, FP. -/
theorem desBlock_eq (v : Block) (keys : List RoundKey) : desBlock v keys =
    permute fpTable (keys.foldl feistelRound (LR.ofBlock (permute ipTable v))).swap.toBlock := rfl

/-- R142: with the halves swapped a round undoes itself. -/
theorem feistelRound_swap (x : LR) (k : RoundKey) : feistelRound (feistelRound x k).swap k = x.swap := by
  simp [feistelRound, LR.swap]

theorem foldl_feistelRound_reverse (keys : List RoundKey) (x : LR) :
    keys.reverse.foldl feistelRound (keys.foldl feistelRound x).swap = x.swap := by
  induction keys generalizing x with
  | nil => rfl
  | cons k keys ih =>
    rw [List.reverse_cons, List.foldl_concat, List.foldl_cons, ih, feistelRound_swap]

theorem desBlock_reverse (v : Block) (keys : List RoundKey) : desBlock (desBlock v keys) keys.reverse = v := by
  rw [desBlock_eq, desBlock_eq v, fpTable_undoes_ipTable.permute_permute, LR.ofBlock_toBlock,
    foldl_feistelRound_reverse, LR.swap_swap, LR.toBlock_ofBlock, ipTable_undoes_fpTable.permute_permute]

/-- Settles O32: the argument is the same for any number of keys. -/
theorem reversedKeysUndoTheBlockFunction : Obligations.ReversedKeysUndoTheBlockFunction :=
  fun v keys _ => desBlock_reverse v keys

end Sys2Proof.Machine
end

section
/-! PROOF. DES.ENC and DES.DEC undo each other (R146), with any events between them that keep BLK and the schedule. -/

namespace Sys2Proof.Machine

/-- What a run of the block function under `keys` writes (R144, R145). -/
def blockDone (keys : List RoundKey) (s : State) : State := { s with blk := desBlock s.blk keys, err := 0 }

theorem blockDone_reverse {keys : List RoundKey} {b : Block} {u : State} (h : u.blk = desBlock b keys) :
    blockDone keys.reverse u = { u with blk := b, err := 0 } := by
  rw [blockDone, h, desBlock_reverse]

/-- With the schedule `rk` complete, the command `i` puts BLK through the block function under `keys`. -/
def Transforms (i : Instr) (rk : Vector RoundKey 16) (keys : List RoundKey) : Prop :=
  ∀ s : State, s.ksv = true → s.rk = rk → exec i s = .next (blockDone keys s)

theorem desEnc_transforms (rk : Vector RoundKey 16) : Transforms .desEnc rk rk.toList :=
  fun _ hv hrk => hrk ▸ exec_desEnc hv

theorem desDec_transforms (rk : Vector RoundKey 16) : Transforms .desDec rk rk.toList.reverse :=
  fun _ hv hrk => hrk ▸ exec_desDec hv

/-- R142: with nothing between, the two commands write BLK and ERR alone. -/
theorem Transforms.undone_at_once {i j : Instr} {s : State} {keys : List RoundKey}
    (hi : Transforms i s.rk keys) (hj : Transforms j s.rk keys.reverse) (hv : s.ksv = true) :
    execSeq [i, j] s = .next { s with err := 0 } := by
  have hsecond := hj (blockDone keys s) hv rfl
  rw [execSeq_cons (hi s hv rfl), execSeq_cons hsecond, blockDone_reverse rfl]
  rfl

/-- R146: the events between the two commands hand the second the block and the schedule the first left. -/
theorem Transforms.undone {i j : Instr} {s : State} {keys : List RoundKey} (hi : Transforms i s.rk keys)
    (hj : Transforms j s.rk keys.reverse) (hv : s.ksv = true) {es : List HostEvent}
    (hes : ∀ e ∈ es, e.KeepsBlockAndKey) :
    ∃ t u v, exec i s = .next t ∧ runEvents es t = .next u ∧ exec j u = .next v ∧
      v.blk = s.blk ∧ v.err = 0 ∧ v = { u with blk := s.blk, err := 0 } := by
  obtain ⟨u, hu, hvu, hrk, hblk⟩ := runEvents_keepsBlockAndKey es (s := blockDone keys s) hv hes
  have hsecond : exec j u = .next { u with blk := s.blk, err := 0 } := by
    rw [hj u hvu hrk, blockDone_reverse hblk]
  exact ⟨_, u, _, hi s hv rfl, hu, hsecond, rfl, rfl, rfl⟩

/-- Settles O33: the keys of each command are those of the other, reversed. -/
theorem decryptAfterEncryptRestoresBlock : Obligations.DecryptAfterEncryptRestoresBlock := by
  intro s hv
  have henc := desEnc_transforms s.rk
  have hdec := desDec_transforms s.rk
  have henc' : Transforms .desEnc s.rk s.rk.toList.reverse.reverse := by
    rw [List.reverse_reverse]
    exact henc
  refine ⟨henc.undone_at_once hdec hv, hdec.undone_at_once henc' hv, ?_⟩
  rintro i j es (⟨rfl, rfl⟩ | ⟨rfl, rfl⟩) hes
  · exact henc.undone hdec hv hes
  · exact hdec.undone henc' hv hes

end Sys2Proof.Machine
end

section
/-! PROOF. DES.ENC and DES.DEC with the rounds spelled out (R138 to R140, R144, R145). -/

namespace Sys2Proof.Machine

/-- The halves after the first `n` rounds of R139. -/
def roundsAfter (x : LR) (key : Fin 16 → RoundKey) (n : Nat) : LR :=
  ((List.ofFn key).take n).foldl feistelRound x

theorem roundsAfter_succ (x : LR) (key : Fin 16 → RoundKey) (n : Fin 16) :
    roundsAfter x key (n.val + 1) = feistelRound (roundsAfter x key n.val) (key n) := by
  have hn : n.val < (List.ofFn key).length := List.length_ofFn ▸ n.isLt
  rw [roundsAfter, List.take_succ_eq_append_getElem hn, List.foldl_concat, List.getElem_ofFn, roundsAfter]

theorem roundsAfter_sixteen (x : LR) (key : Fin 16 → RoundKey) :
    roundsAfter x key 16 = (List.ofFn key).foldl feistelRound x := by
  rw [roundsAfter, List.take_of_length_le (Nat.le_of_eq List.length_ofFn)]

/-- The block function as R138 to R140 print it, with the halves before and after each round. -/
theorem desBlock_rounds (v : Block) (key : Fin 16 → RoundKey) : ∃ l r : Nat → Word,
    l 0 = desSlice (permute ipTable v) 1 32 ∧ r 0 = desSlice (permute ipTable v) 33 32 ∧
    (∀ n : Fin 16, l (n.val + 1) = r n.val ∧ r (n.val + 1) = l n.val ^^^ feistelF (r n.val) (key n)) ∧
    desBlock v (List.ofFn key) = permute fpTable (r 16 ++ l 16) := by
  generalize hx : LR.ofBlock (permute ipTable v) = x
  refine ⟨fun n => (roundsAfter x key n).l, fun n => (roundsAfter x key n).r, ?_, ?_, fun n => ?_, ?_⟩
  · exact congrArg LR.l hx.symm
  · exact congrArg LR.r hx.symm
  · have hround := roundsAfter_succ x key n
    exact ⟨congrArg LR.l hround, congrArg LR.r hround⟩
  · rw [desBlock_eq, hx, ← roundsAfter_sixteen]
    rfl

theorem rk_toList_eq_ofFn (rk : Vector RoundKey 16) : rk.toList = List.ofFn fun i : Fin 16 => rk[i] := by
  rw [← Vector.toList_ofFn]
  exact congrArg Vector.toList Vector.ofFn_getElem.symm

/-- R145: place `n` of the reversed order is RK[17 - n]. -/
theorem rk_reverse_eq_ofFn (rk : Vector RoundKey 16) :
    rk.toList.reverse = List.ofFn fun i : Fin 16 => rk[15 - i.val] := by
  rw [← Vector.toList_reverse, rk_toList_eq_ofFn]
  exact congrArg List.ofFn (funext fun i => Vector.getElem_reverse i.isLt)

/-- Settles O30: `desBlock_rounds` under RK[1] to RK[16]. -/
theorem desEncTransformsBlock : Obligations.DesEncTransformsBlock := by
  refine fun s => ⟨fun hl hr => ?_, fun h => exec_desEnc_notReady (State.ksv_eq_false.mpr h)⟩
  obtain ⟨l, r, hl0, hr0, hrounds, hblock⟩ := desBlock_rounds s.blk fun i => s.rk[i]
  refine ⟨l, r, hl0, hr0, hrounds, hblock, ?_⟩
  rw [exec_desEnc (State.ksv_eq_true.mpr ⟨hl, hr⟩), rk_toList_eq_ofFn, hblock]

/-- Settles O31: `desBlock_rounds` under RK[16] to RK[1]. -/
theorem desDecUsesKeysInReverse : Obligations.DesDecUsesKeysInReverse := by
  refine fun s => ⟨fun hl hr => ?_, fun h => exec_desDec_notReady (State.ksv_eq_false.mpr h)⟩
  obtain ⟨l, r, hl0, hr0, hrounds, hblock⟩ := desBlock_rounds s.blk fun i => s.rk[15 - i.val]
  refine ⟨l, r, hl0, hr0, hrounds, hblock, ?_⟩
  rw [exec_desDec (State.ksv_eq_true.mpr ⟨hl, hr⟩), rk_reverse_eq_ofFn, hblock]

end Sys2Proof.Machine
end

section
/-! PROOF. The complement law (R147): E(R) XOR K is the same for the complements of both, so each round commutes with
complement, and so do the permutations before and after. -/

namespace Sys2Proof.Machine

theorem Undoes.permute_not {n : Nat} {u t : Vector Nat n} (h : Undoes u t) (v : BitVec n) :
    permute t (~~~v) = ~~~(permute t v) :=
  Machine.permute_not t v fun j hj => h.index_lt ⟨j, hj⟩

theorem eTable_index_lt : ∀ i : Fin 48, eTable[i] - 1 < 32 := by decide

theorem permute_eTable_not (r : Word) : permute eTable (~~~r) = ~~~(permute eTable r) :=
  permute_not eTable r fun j hj => eTable_index_lt ⟨j, hj⟩

/-- R147: the two complements cancel before the S-boxes. -/
theorem feistelF_not (r : Word) (k : RoundKey) : feistelF (~~~r) (~~~k) = feistelF r k := by
  have hx : ~~~(permute eTable r) ^^^ ~~~k = permute eTable r ^^^ k := by
    rw [← BitVec.not_xor_left, ← BitVec.not_xor_right, BitVec.not_not]
  rw [feistelF, feistelF, permute_eTable_not, hx]

/-- Both halves complemented. -/
def LR.compl (x : LR) : LR := ⟨~~~x.l, ~~~x.r⟩

theorem feistelRound_compl (x : LR) (k : RoundKey) :
    feistelRound x.compl (~~~k) = (feistelRound x k).compl := by
  have hr : ~~~x.l ^^^ feistelF (~~~x.r) (~~~k) = ~~~(x.l ^^^ feistelF x.r k) := by
    rw [feistelF_not, BitVec.not_xor_left]
  exact congrArg (LR.mk (~~~x.r)) hr

theorem foldl_feistelRound_compl (keys : List RoundKey) (x : LR) :
    (keys.map (~~~·)).foldl feistelRound x.compl = (keys.foldl feistelRound x).compl := by
  induction keys generalizing x with
  | nil => rfl
  | cons k keys ih => rw [List.map_cons, List.foldl_cons, feistelRound_compl, ih, List.foldl_cons]

theorem LR.ofBlock_not (t : Block) : LR.ofBlock (~~~t) = (LR.ofBlock t).compl := by
  rw [LR.ofBlock, desSlice_not _ _ _ (by decide) (by decide), desSlice_not _ _ _ (by decide) (by decide)]
  rfl

theorem LR.toBlock_swap_compl (x : LR) : x.compl.swap.toBlock = ~~~x.swap.toBlock :=
  BitVec.not_append.symm

theorem desBlock_not (v : Block) (keys : List RoundKey) :
    desBlock (~~~v) (keys.map (~~~·)) = ~~~(desBlock v keys) := by
  rw [desBlock_eq, desBlock_eq, fpTable_undoes_ipTable.permute_not, LR.ofBlock_not, foldl_feistelRound_compl,
    LR.toBlock_swap_compl, ipTable_undoes_fpTable.permute_not]

/-- R116, for the sixteen keys at once. -/
theorem scheduleOf_not (k : Block) : (scheduleOf (~~~k)).toList = (scheduleOf k).toList.map (~~~·) :=
  List.ext_getElem (by simp) fun i hi _ => by
    have hi16 : i < 16 := by simpa using hi
    simp [scheduleOf, roundKeyOf_not k hi16]

/-- Settles O35: `desBlock_not` under the complemented schedule. -/
theorem desComplementLaw : Obligations.DesComplementLaw := by
  intro k v
  rw [scheduleOf_not, desBlock_not]

end Sys2Proof.Machine
end

section
/-! PROOF. The S-boxes (R136) and the F-function over the eight groups (R137). -/

namespace Sys2Proof.Machine

/-- R12: a slice one bit longer is the slice and the next bit. -/
theorem toNat_desSlice_succ {n : Nat} (v : BitVec n) {i m : Nat} (hi : 1 ≤ i) (h : i + m ≤ n) :
    (desSlice v i (m + 1)).toNat = 2 * (desSlice v i m).toNat + (desBit v (i + m)).toNat := by
  obtain ⟨k, rfl⟩ : ∃ k, n = i + m + k := ⟨n - (i + m), by omega⟩
  have hlong : i + m + k + 1 - i - (m + 1) = k := by omega
  have hshort : i + m + k + 1 - i - m = k + 1 := by omega
  rw [desBit_eq_testBit v (by omega) h, Nat.toNat_testBit, desSlice, desSlice, BitVec.extractLsb'_toNat,
    BitVec.extractLsb'_toNat, hlong, hshort, Nat.shiftRight_succ, Nat.shiftRight_eq_div_pow,
    Nat.add_sub_cancel_left, Nat.pow_succ', Nat.mod_mul, Nat.add_comm]

theorem toNat_desSlice_zero {n : Nat} (v : BitVec n) (i : Nat) : (desSlice v i 0).toNat = 0 := by
  rw [BitVec.of_length_zero (x := desSlice v i 0)]
  rfl

/-- R136: the outer bits of a group, as a row. -/
theorem toNat_outer_bits (g : BitVec 6) :
    (desSlice g 1 1 ++ desSlice g 6 1).toNat = 2 * (desBit g 1).toNat + (desBit g 6).toNat := by
  rw [toNat_append_eq_mul_add, toNat_desSlice_succ g (by decide) (by decide),
    toNat_desSlice_succ g (by decide) (by decide), toNat_desSlice_zero, toNat_desSlice_zero]
  dsimp only [Nat.reduceAdd]
  omega

/-- R136: the inner bits of a group, as a column. -/
theorem toNat_inner_bits (g : BitVec 6) :
    (desSlice g 2 4).toNat = 8 * (desBit g 2).toNat + 4 * (desBit g 3).toNat + 2 * (desBit g 4).toNat
      + (desBit g 5).toNat := by
  rw [toNat_desSlice_succ g (by decide) (by decide), toNat_desSlice_succ g (by decide) (by decide),
    toNat_desSlice_succ g (by decide) (by decide), toNat_desSlice_succ g (by decide) (by decide),
    toNat_desSlice_zero]
  dsimp only [Nat.reduceAdd]
  omega

theorem sBoxLookup_row_col (box : SBox) (g : BitVec 6) : ∃ (row : Fin 4) (col : Fin 16),
    row.val = 2 * (desBit g 1).toNat + (desBit g 6).toNat ∧
    col.val = 8 * (desBit g 2).toNat + 4 * (desBit g 3).toNat + 2 * (desBit g 4).toNat + (desBit g 5).toNat ∧
    sBoxLookup box g = box[row][col] :=
  ⟨(desSlice g 1 1 ++ desSlice g 6 1).toFin, (desSlice g 2 4).toFin, toNat_outer_bits g, toNat_inner_bits g, rfl⟩

/-- The slices of a concatenation of eight groups of four bits are the groups. -/
theorem desSlice_of_eight (a b c d e f g h : BitVec 4) (i : Fin 8) :
    desSlice (a ++ b ++ c ++ d ++ e ++ f ++ g ++ h) (4 * i.val + 1) 4 = #v[a, b, c, d, e, f, g, h][i] := by
  fin_cases i
  · repeat rw [desSlice_append_left _ _ (by decide) (by decide)]
    exact desSlice_whole a
  all_goals
    repeat rw [desSlice_append_left _ _ (by decide) (by decide)]
    exact desSlice_append_last _ _ rfl

/-- R137: four bits of the substitution's output are the lookup of six bits of its input. -/
theorem desSlice_substitute (x : BitVec 48) (i : Fin 8) :
    desSlice (substitute x) (4 * i.val + 1) 4 =
      sBoxLookup #v[sBox1, sBox2, sBox3, sBox4, sBox5, sBox6, sBox7, sBox8][i] (desSlice x (6 * i.val + 1) 6) := by
  refine (desSlice_of_eight _ _ _ _ _ _ _ _ i).trans ?_
  fin_cases i <;> rfl

/-- Settles O36: the lookup's row and column, and the eight lookups of `substitute`. -/
theorem sBoxRowAndColumn : Obligations.SBoxRowAndColumn := by
  refine ⟨sBoxLookup_row_col, fun r k => ⟨_, _, rfl, fun i box hbox => ?_, rfl⟩⟩
  obtain ⟨_, rfl⟩ := List.getElem?_eq_some_iff.mp hbox
  exact desSlice_substitute _ i

end Sys2Proof.Machine
end

section
/-! PROOF. The message schedule (R164): each word past the sixteen of the chunk is computed from the words before it. -/

namespace Sys2Proof.Machine

theorem take_extendSchedule (n : Nat) (w : List Word) : (extendSchedule n w).take w.length = w := by
  induction n generalizing w with
  | zero => exact List.take_length
  | succ n ih =>
    have h := congrArg (List.take w.length) (ih (w ++ [nextScheduleWord w]))
    simpa [extendSchedule, List.take_take] using h

/-- R164: a new word is `nextScheduleWord` of the words before it in the finished schedule. -/
theorem extendSchedule_new {n i : Nat} {w : List Word} (hi : w.length ≤ i) (hn : i < w.length + n) :
    (extendSchedule n w)[i]? = some (nextScheduleWord ((extendSchedule n w).take i)) := by
  induction n generalizing w with
  | zero => omega
  | succ n ih =>
    obtain rfl | hlt := Nat.eq_or_lt_of_le hi
    · rw [take_extendSchedule, extendSchedule, extendSchedule_old _ _ _ (by simp), List.getElem?_concat_length]
    · have hlen : (w ++ [nextScheduleWord w]).length = w.length + 1 := List.length_append
      exact ih (by omega) (by omega)

theorem nextScheduleWord_take {l : List Word} {i : Nat} (hi : 16 ≤ i) (hl : i < l.length) :
    nextScheduleWord (l.take i) = rotl (l[i - 3] ^^^ l[i - 8] ^^^ l[i - 14] ^^^ l[i - 16]) 1 := by
  have hlen : (l.take i).length = i := List.length_take_of_le hl.le
  have hword {k : Nat} (hk : k < i) : (l.take i).getD k 0 = l[k] := by
    rw [List.getD_eq_getElem _ _ (by omega), List.getElem_take]
  simp only [nextScheduleWord, hlen]
  rw [hword (by omega), hword (by omega), hword (by omega), hword (by omega)]

theorem messageSchedule_length (m : Vector Word 16) : (messageSchedule m).length = 80 := by
  rw [messageSchedule, extendSchedule_length, Vector.length_toList]

theorem messageSchedule_chunk (m : Vector Word 16) (i : Fin 16) : (messageSchedule m)[i.val]? = some m[i] := by
  rw [messageSchedule, extendSchedule_old _ _ _ (by simp)]
  simp

theorem messageSchedule_new (m : Vector Word 16) {i : Nat} (hi : 16 ≤ i) (h80 : i < 80) :
    (messageSchedule m)[i]? = some (nextScheduleWord ((messageSchedule m).take i)) :=
  extendSchedule_new (w := m.toList) (Vector.length_toList.symm ▸ hi) (Vector.length_toList.symm ▸ h80)

/-- Settles O39: the first sixteen words stay and the later ones obey `nextScheduleWord`. -/
theorem messageScheduleRecurrence : Obligations.MessageScheduleRecurrence := by
  intro m
  refine ⟨messageSchedule_length m, messageSchedule_chunk m, fun i hi h80 => ?_⟩
  have hlen := messageSchedule_length m
  have hword {k : Nat} (hk : k < (messageSchedule m).length) :
      (messageSchedule m)[k]? = some (messageSchedule m)[k] := List.getElem?_eq_getElem hk
  exact ⟨_, _, _, _, hword (by omega), hword (by omega), hword (by omega), hword (by omega),
    (messageSchedule_new m hi h80).trans (congrArg some (nextScheduleWord_take hi (by omega)))⟩

end Sys2Proof.Machine
end

section
/-! PROOF. SHA.INIT (R169), and SHA.BLOCK with the compression function spelled out (R162, R163, R166, R167, R170,
R171): the working variables after each round are `shaRounds`. -/

namespace Sys2Proof.Machine

/-- Settles O37: the five constants are `shaInitial`. -/
theorem shaInitSetsDigest : Obligations.ShaInitSetsDigest := exec_shaInit

/-- R162, R163: rounds 0 to 19, the function Ch. -/
theorem shaF_shaK_ch {t : Nat} (h : t ≤ 19) (x y z : Word) :
    shaF t x y z = (x &&& y) ||| (~~~x &&& z) ∧ shaK t = 0x5A827999 := by
  simp [shaF, shaK, show t < 20 by omega]

/-- R162, R163: rounds 20 to 39, the function Parity. -/
theorem shaF_shaK_parity {t : Nat} (h : 20 ≤ t) (h' : t ≤ 39) (x y z : Word) :
    shaF t x y z = x ^^^ y ^^^ z ∧ shaK t = 0x6ED9EBA1 := by
  simp [shaF, shaK, show ¬ t < 20 by omega, show t < 40 by omega]

/-- R162, R163: rounds 40 to 59, the function Maj. -/
theorem shaF_shaK_maj {t : Nat} (h : 40 ≤ t) (h' : t ≤ 59) (x y z : Word) :
    shaF t x y z = (x &&& y) ||| (x &&& z) ||| (y &&& z) ∧ shaK t = 0x8F1BBCDC := by
  simp [shaF, shaK, show ¬ t < 20 by omega, show ¬ t < 40 by omega, show t < 60 by omega]

/-- R162, R163: rounds from 60 on, Parity again with a constant of its own. -/
theorem shaF_shaK_late_parity {t : Nat} (h : 60 ≤ t) (x y z : Word) :
    shaF t x y z = x ^^^ y ^^^ z ∧ shaK t = 0xCA62C1D6 := by
  simp [shaF, shaK, show ¬ t < 20 by omega, show ¬ t < 40 by omega, show ¬ t < 60 by omega]

/-- Settles O38: round `t` takes `shaF t`, `shaK t` and word `t` of the schedule. -/
theorem shaBlockCompresses : Obligations.ShaBlockCompresses := by
  refine fun s => ⟨exec_shaBlock_notReady, fun hv =>
    ⟨shaRounds (messageSchedule s.msg) ⟨s.h[0], s.h[1], s.h[2], s.h[3], s.h[4]⟩, rfl, fun t ht => ?_, rfl,
      exec_shaBlock hv⟩⟩
  have hword : (messageSchedule s.msg)[t]? = some ((messageSchedule s.msg).getD t 0) := by
    have hlt := ht.trans_eq (messageSchedule_length s.msg).symm
    rw [List.getD_eq_getElem _ _ hlt, List.getElem?_eq_getElem hlt]
  exact ⟨shaF t _ _ _, shaK t, _, hword, fun h => shaF_shaK_ch h _ _ _, fun h h' => shaF_shaK_parity h h' _ _ _,
    fun h h' => shaF_shaK_maj h h' _ _ _, fun h => shaF_shaK_late_parity h _ _ _, rfl, rfl, rfl, rfl, rfl⟩

end Sys2Proof.Machine
end

section
/-! PROOF. The digest over chunks (R172): what SHA.INIT, the sixteen writes of a chunk and SHA.BLOCK leave, and so what
a list of chunks leaves. -/

namespace Sys2Proof.Machine

/-- R22: the write of a well-formed command's word to CMD runs the command. -/
theorem event_command {i : Instr} (h : i.wf = true) (s : State) :
    event (.command i) s = returned (exec i s) := by
  rw [HostEvent.command, event_cmd, issue_of_decode (decode_encode h)]

theorem runEvents_shaBlock {s : State} (hv : s.shv = true) : runEvents [.command .shaBlock] s =
    .next { s with h := shaCompress s.h s.msg, err := 0, replies := .done :: s.replies } := by
  have hblock := event_command (i := .shaBlock) rfl s
  rw [exec_shaBlock hv, returned_next] at hblock
  exact runEvents_cons hblock []

/-- `v` with the words of `m` at the places `is`. -/
def setWords (m : Vector Word 16) (is : List (Fin 16)) (v : Vector Word 16) : Vector Word 16 :=
  is.foldl (fun (u : Vector Word 16) (i : Fin 16) => u.set i m[i]) v

theorem setWords_getElem (m : Vector Word 16) (is : List (Fin 16)) (v : Vector Word 16) (j : Fin 16) :
    (setWords m is v)[j] = if j ∈ is then m[j] else v[j] := by
  induction is generalizing v with
  | nil => simp [setWords]
  | cons i is ih =>
    have hstep : setWords m (i :: is) v = setWords m is (v.set i m[i]) := rfl
    rw [hstep, ih]
    obtain rfl | hne := eq_or_ne j i
    · simp
    · have hval : i.val ≠ j.val := fun h => hne (Fin.ext h.symm)
      simp [hne, hval]

/-- All sixteen places together leave nothing of `v`. -/
theorem setWords_finRange (m v : Vector Word 16) : setWords m (List.finRange 16) v = m := by
  refine Vector.ext fun j hj => ?_
  simpa using setWords_getElem m (List.finRange 16) v ⟨j, hj⟩

/-- R213: a run of MSG writes stores the words and answers each write. -/
theorem runEvents_msgWrites (m : Vector Word 16) (is : List (Fin 16)) (s : State) :
    runEvents (is.map fun i => .wr (.msg i m[i])) s = .next { s with
      msg := setWords m is s.msg, replies := List.replicate is.length .done ++ s.replies } := by
  induction is generalizing s with
  | nil => rfl
  | cons i is ih =>
    rw [List.map_cons, runEvents_cons (event_store rfl s), ih, List.length_cons, List.replicate_succ',
      List.append_assoc]
    rfl

/-- What the chunks `ms` leave of a state whose digest is in progress: H chained through them, the last chunk in MSG,
and the seventeen answers for each. -/
def chunksDone (ms : List (Vector Word 16)) (s : State) : State :=
  { s with
    h := ms.foldl shaCompress s.h, msg := ms.getLastD s.msg, err := 0
    replies := List.replicate (17 * ms.length) .done ++ s.replies }

/-- R170: one chunk, written and compressed. -/
theorem runEvents_chunkRun (m : Vector Word 16) {s : State} (hv : s.shv = true) :
    runEvents (chunkRun m) s = .next (chunksDone [m] s) := by
  rw [chunkRun, runEvents_append (runEvents_msgWrites m _ s), setWords_finRange]
  exact runEvents_shaBlock hv

theorem chunksDone_cons (m : Vector Word 16) (ms : List (Vector Word 16)) (s : State) :
    chunksDone ms (chunksDone [m] s) = chunksDone (m :: ms) s := by
  simp only [chunksDone, List.foldl_cons, List.foldl_nil, List.getLastD_cons, List.getLastD_nil, List.length_cons,
    List.length_nil, ← List.append_assoc, List.replicate_append_replicate, Nat.mul_add, Nat.zero_add]

theorem runEvents_chunkRuns (ms : List (Vector Word 16)) {s : State} (hv : s.shv = true) (he : s.err = 0) :
    runEvents (ms.flatMap chunkRun) s = .next (chunksDone ms s) := by
  induction ms generalizing s with
  | nil => simp [chunksDone, ← he]
  | cons m ms ih =>
    rw [List.flatMap_cons, runEvents_append (runEvents_chunkRun m hv), ih (s := chunksDone [m] s) hv rfl,
      chunksDone_cons]

/-- Settles O40: after SHA.INIT the digest is in progress and ERR is 0, whatever the chunks. -/
theorem digestChainsOverChunks : Obligations.DigestChainsOverChunks := by
  intro s chunks
  have hinit := event_command (i := .shaInit) rfl s
  rw [exec_shaInit, returned_next] at hinit
  exact ⟨_, (runEvents_cons hinit _).trans (runEvents_chunkRuns chunks rfl rfl), rfl, rfl, rfl, rfl, rfl⟩

end Sys2Proof.Machine
end

section
/-! PROOF. The RSA commands (R192 to R199): the value of each, and RSA.EXP with inverse exponents. -/

namespace Sys2Proof.Machine

/-- Settles O41: the multiplier reduces the full product. -/
theorem rsaMulExactResidue : Obligations.RsaMulExactResidue :=
  fun _ => ⟨exec_rsaMul_modulusError, exec_rsaMul⟩

/-- R195, R196: RSA.EXP writes the exact power. -/
theorem exec_rsaExp_power {s : State} (h : s.modn ≠ 0) :
    exec .rsaExp s = .next { s with res := s.opa ^ s.expo % s.modn, err := 0 } := by
  rw [exec_rsaExp h, powmod_eq]

/-- Settles O42: `powmod_eq` gives the micro-sequence its value. -/
theorem rsaExpIsModularPower : Obligations.RsaExpIsModularPower :=
  fun _ => ⟨exec_rsaExp_modulusError, exec_rsaExp_power⟩

theorem modMul_comm (a b n : Nat) : modMul a b n = modMul b a n := by
  rw [modMul, modMul, Nat.mul_comm]

theorem powmod_mod_base (b x n : Nat) : powmod (b % n) x n = powmod b x n := by
  rw [powmod_eq, powmod_eq, ← Nat.pow_mod]

/-- Settles O43: the residues' laws, read off the two results. -/
theorem rsaResultsAreResidues : Obligations.RsaResultsAreResidues := fun s hn =>
  ⟨⟨_, _, exec_rsaMul hn, exec_rsaMul hn, modMul_comm s.opa s.opb s.modn, modMul_lt _ _ hn⟩,
   ⟨_, _, exec_rsaExp hn, exec_rsaExp hn, (powmod_mod_base s.opa s.expo s.modn).symm, powmod_lt _ _ hn⟩⟩

/-- Fermat's little theorem for every base: an exponent that is 1 modulo `(p - 1) * r` gives the base back. -/
theorem pow_modEq_self_of_prime {p r x : Nat} (hp : p.Prime) (hx : x % ((p - 1) * r) = 1) (m : Nat) :
    m ^ x ≡ m [MOD p] := by
  have hx1 : 1 ≤ x := Nat.one_le_iff_ne_zero.mpr fun h0 => by simp [h0] at hx
  have hdvd : (p - 1) * r ∣ x - x % ((p - 1) * r) := Nat.dvd_sub_mod x
  rw [hx] at hdvd
  have hpow := Int.ModEq.pow_eq_pow hp (dvd_of_mul_right_dvd hdvd) hx1 one_pos m
  rw [← Int.natCast_modEq_iff]
  simpa using hpow

/-- R199: with inverse exponents the second power undoes the first, for every residue. -/
theorem pow_mod_pow_mod_of_inverse {p q e d m : Nat} (hp : p.Prime) (hq : q.Prime) (hpq : p ≠ q)
    (hed : e * d % ((p - 1) * (q - 1)) = 1) (hm : m < p * q) : (m ^ e % (p * q)) ^ d % (p * q) = m := by
  have hmod : m ^ (e * d) ≡ m [MOD p * q] :=
    (Nat.modEq_and_modEq_iff_modEq_mul ((Nat.coprime_primes hp hq).mpr hpq)).mp
      ⟨pow_modEq_self_of_prime hp hed m, pow_modEq_self_of_prime hq (mul_comm (p - 1) (q - 1) ▸ hed) m⟩
  rw [← Nat.pow_mod, ← pow_mul]
  exact Nat.mod_eq_of_modEq hmod hm

/-- Settles O44: RES of the first command is `m ^ e % (p * q)`, the base of the second. -/
theorem rsaExponentsUndoEachOther : Obligations.RsaExponentsUndoEachOther :=
  fun s _ _ e _ m hp hq hpq hed hm =>
    have hn := mul_ne_zero hp.ne_zero hq.ne_zero
    ⟨_, _, exec_rsaExp_power (s := { s with opa := m, expo := e, modn := _ }) hn, exec_rsaExp_power hn,
      pow_mod_pow_mod_of_inverse hp hq hpq hed hm⟩

end Sys2Proof.Machine
end

section
/-! PROOF. RSA_ENCRYPT and RSA_DECRYPT (R257 to R259): a run of powers under one key, and the text it gives back. -/

namespace Sys2Proof.Machine

theorem effectiveKey_eq_some {given stored : Option RsaKey} {k : RsaKey} :
    effectiveKey given stored = some k ↔ given = some k ∨ (given = none ∧ stored = some k) := by
  cases given <;> simp [effectiveKey]

/-- R196: the write of RSA.EXP's word to CMD puts the power in RES and answers the write. -/
theorem event_rsaExp {s : State} (hn : s.modn ≠ 0) : event (.command .rsaExp) s =
    .next { s with res := s.opa ^ s.expo % s.modn, err := 0, replies := .done :: s.replies } := by
  rw [event_command rfl, exec_rsaExp_power hn, returned_next]
  rfl

/-- What one base through the exponentiator leaves: its power in RES and in the last answer (R258, R259). -/
def powerDone (s : State) (m : Nat) : State :=
  { s with
    opa := m, res := m ^ s.expo % s.modn, err := 0
    replies := .data (Reg.rid .res) (m ^ s.expo % s.modn) :: .done :: .done :: s.replies }

theorem runEvents_expEvents (m : Nat) {s : State} (hn : s.modn ≠ 0) :
    runEvents (expEvents m) s = .next (powerDone s m) := by
  rw [expEvents, runEvents_cons (event_store rfl s),
    runEvents_cons (event_rsaExp (s := (s.store (.opa m)).answer .done) hn), runEvents_cons (event_rd _ _),
    State.readRid_rid]
  rfl

theorem runEvents_flatMap_expEvents (ms : List Nat) {s : State} (hn : s.modn ≠ 0) :
    runEvents (ms.flatMap expEvents) s = .next (ms.foldl powerDone s) := by
  induction ms generalizing s with
  | nil => rfl
  | cons m ms ih =>
    rw [List.flatMap_cons, runEvents_append (runEvents_expEvents m hn), ih (s := powerDone s m) hn,
      List.foldl_cons]

theorem observed_powerDone (s : State) (m : Nat) :
    (powerDone s m).observed = s.observed ++ [m ^ s.expo % s.modn] := by
  simp only [State.observed, powerDone, List.reverse_cons, List.append_assoc, List.filterMap_append]
  rfl

theorem observed_foldl_powerDone (ms : List Nat) (s : State) :
    (ms.foldl powerDone s).observed = s.observed ++ ms.map (· ^ s.expo % s.modn) := by
  induction ms generalizing s with
  | nil => simp
  | cons m ms ih =>
    rw [List.foldl_cons, ih, observed_powerDone, List.append_assoc]
    rfl

/-- What a host call holds once the key is loaded: the exponent, the modulus and the two answers (R258, R259). -/
def keyLoaded (k : RsaKey) (s : State) : State :=
  { s with expo := k.exponent, modn := k.modulus, replies := [.done, .done] }

theorem runEvents_loadKeyEvents (k : RsaKey) (s : State) :
    runEvents (loadKeyEvents k) { s with replies := [] } = .next (keyLoaded k s) := rfl

/-- R258, R259: the host call that loads a key and exponentiates each base answers from the powers. -/
theorem hostCall_powers {α : Type} (k : RsaKey) (ms : List Nat) (s : State) (answer : List Nat → α)
    (hn : k.modulus ≠ 0) : ∃ t, hostCall (loadKeyEvents k ++ ms.flatMap expEvents) s answer =
      .next (t, answer (ms.map (· ^ k.exponent % k.modulus))) := by
  have hobs : (ms.foldl powerDone (keyLoaded k s)).observed = ms.map (· ^ k.exponent % k.modulus) :=
    observed_foldl_powerDone ms (keyLoaded k s)
  rw [hostCall, runEvents_append (runEvents_loadKeyEvents k s),
    runEvents_flatMap_expEvents (s := keyLoaded k s) ms hn, ← hobs]
  exact ⟨_, rfl⟩

/-- R258: each byte is encrypted on its own. -/
theorem rsaEncrypt_eq (enc : TextEnc) (text : Message) {given : Option RsaKey} {cipher : PkCipher} {k : RsaKey}
    (s : State) (hk : effectiveKey given cipher.pub = some k) (hn : k.modulus ≠ 0) :
    ∃ t, rsaEncrypt enc text given cipher s =
      .next (t, .ok ((text.toBytes enc).map fun b => b.toNat ^ k.exponent % k.modulus)) := by
  obtain ⟨t, ht⟩ := hostCall_powers k ((text.toBytes enc).map BitVec.toNat) s (Except.ok (ε := HostError)) hn
  rw [List.flatMap_map, List.map_map] at ht
  exact ⟨t, by rw [rsaEncrypt, hk]; exact ht⟩

theorem map_ofNat_map_toNat (bytes : List Byte) : (bytes.map BitVec.toNat).map (BitVec.ofNat 8) = bytes := by
  simp [Function.comp_def]

/-- R259: when the powers are the values of bytes, the answer is what the bytes decode to. -/
theorem rsaDecrypt_eq (enc : TextEnc) {ciphers : List Nat} {given : Option RsaKey} {cipher : PkCipher} {k : RsaKey}
    (s : State) (hk : effectiveKey given cipher.prv = some k) (hn : k.modulus ≠ 0) {bytes : List Byte}
    (hbytes : ciphers.map (· ^ k.exponent % k.modulus) = bytes.map BitVec.toNat) :
    ∃ t, rsaDecrypt enc ciphers given cipher s = .next (t, decodedBytes enc (bytes.map BitVec.toNat)) := by
  obtain ⟨t, ht⟩ := hostCall_powers k ciphers s id hn
  have hall : (bytes.map BitVec.toNat).all (· < 256) = true := by
    simpa using fun b _ => b.isLt
  refine ⟨t, ?_⟩
  rw [rsaDecrypt, hk]
  simp only [ht, hbytes, id, hall, if_true]

/-- Settles O59: by R199 the second powers are the bytes again. -/
theorem rsaEncryptDecryptRoundTrip : Obligations.RsaEncryptDecryptRoundTrip := by
  intro enc text pub prv cipher s p q e d hp hq hpq hed hpub hprv hlt
  have hn : p * q ≠ 0 := mul_ne_zero hp.ne_zero hq.ne_zero
  have hback : ((text.toBytes enc).map fun b => b.toNat ^ e % (p * q)).map (· ^ d % (p * q)) =
      (text.toBytes enc).map BitVec.toNat := by
    rw [List.map_map]
    exact List.map_congr_left fun b hb => pow_mod_pow_mod_of_inverse hp hq hpq hed (hlt b hb)
  obtain ⟨s1, henc⟩ := rsaEncrypt_eq enc text s (effectiveKey_eq_some.mpr hpub) hn
  obtain ⟨s2, hdec⟩ := rsaDecrypt_eq enc s1 (effectiveKey_eq_some.mpr hprv) hn hback
  refine ⟨s1, s2, _, henc, rfl, ?_⟩
  rw [hdec, decodedBytes, map_ofNat_map_toNat]
  cases enc.decode (text.toBytes enc) <;> rfl

end Sys2Proof.Machine
end

section
/-! PROOF. An engine's registers by themselves (R323): its commands neither read nor write any other register but
ERR, so they do the same over any other contents of the rest. -/

namespace Sys2Proof.Machine

/-- The state that holds `s`'s registers of one engine over `u`'s remaining registers. -/
def Engine.overlay : Engine → State → State → State
  | .cipher, s, u =>
    { u with key := s.key, c := s.c, d := s.d, rk := s.rk, blk := s.blk, ksl := s.ksl, ksrnd := s.ksrnd }
  | .hash, s, u => { u with h := s.h, msg := s.msg, shv := s.shv }
  | .rsa, s, u => { u with opa := s.opa, opb := s.opb, expo := s.expo, modn := s.modn, res := s.res }

theorem Engine.overlay_eq_of_agree {g : Engine} {s u : State} (h : g.Agree s u) : g.overlay s u = u := by
  cases g with
  | cipher =>
    obtain ⟨hkey, hc, hd, hrk, hblk, hksl, hksrnd⟩ := h
    simp only [Engine.overlay, hkey, hc, hd, hrk, hblk, hksl, hksrnd]
  | hash =>
    obtain ⟨hh, hmsg, hshv⟩ := h
    simp only [Engine.overlay, hh, hmsg, hshv]
  | rsa =>
    obtain ⟨hopa, hopb, hexpo, hmodn, hres⟩ := h
    simp only [Engine.overlay, hopa, hopb, hexpo, hmodn, hres]

/-- ERR is no engine's register. -/
theorem Engine.agree_setErr_overlay (g : Engine) (e : BitVec 4) (s u : State) :
    g.Agree s ((g.overlay s u).setErr e) := by
  cases g with
  | cipher => exact ⟨rfl, rfl, rfl, rfl, rfl, rfl, rfl⟩
  | hash => exact ⟨rfl, rfl, rfl⟩
  | rsa => exact ⟨rfl, rfl, rfl, rfl, rfl⟩

/-- R214, R323: the guards and the writes of an engine's command stay within its engine, so over any `u` it has the
same outcome. -/
theorem Outcomes.overlay {i : Instr} {g : Engine} {s t : State} (ho : Outcomes s i t)
    (hg : engineOf i = some g) (u : State) :
    Outcomes (g.overlay s u) i ((g.overlay t u).setErr t.err) := by
  cases ho <;> cases hg
  case ksInit => exact .ksInit
  case ksInitBad klen hk => exact .ksInitBad klen hk
  case ksLoad => exact .ksLoad
  case ksLoadBad klen hk => exact .ksLoadBad klen hk
  case ksStepNotReady hl => exact .ksStepNotReady hl
  case ksStepFull hl hr => exact .ksStepFull hl hr
  case ksStep j hl hr => exact .ksStep j hl hr
  case desEnc hv => exact .desEnc hv
  case desEncNotReady hv => exact .desEncNotReady hv
  case desDec hv => exact .desDec hv
  case desDecNotReady hv => exact .desDecNotReady hv
  case shaInit => exact .shaInit
  case shaBlock hv => exact .shaBlock hv
  case shaBlockNotReady hv => exact .shaBlockNotReady hv
  case rsaMul hm => exact .rsaMul hm
  case rsaMulModulus hm => exact .rsaMulModulus hm
  case rsaExp hm => exact .rsaExp hm
  case rsaExpModulus hm => exact .rsaExpModulus hm

/-- Settles O50: two states that agree on an engine are one overlaid by the other's registers of it. -/
theorem enginesDoNotInterfere : Obligations.EnginesDoNotInterfere := by
  intro i g s s' t hg hagree ht
  have ho := (exec_outcomes ht).overlay hg s'
  rw [Engine.overlay_eq_of_agree hagree] at ho
  exact ⟨_, exec_of_outcomes ho, g.agree_setErr_overlay t.err t s', rfl⟩

end Sys2Proof.Machine
end

section
/-! PROOF. The frame of every command (R214), and of every error (R272). -/

namespace Sys2Proof.Machine

namespace Outcomes

theorem keeps_port {i : Instr} {s t : State} (ho : Outcomes s i t) :
    t.pending = s.pending ∧ t.replies = s.replies := by
  cases ho <;> exact ⟨rfl, rfl⟩

/-- R272: each outcome leaves ERR 0 or changes nothing else. -/
theorem eq_setErr_of_err_ne_zero {i : Instr} {s t : State} (ho : Outcomes s i t) (he : t.err ≠ 0) :
    t = s.setErr t.err := by
  cases ho with
  | sysReset | ksInit | ksLoad | ksStep | desEnc | desDec | shaInit | shaBlock | rsaMul | rsaExp =>
    exact absurd rfl he
  | _ => rfl

/-- R214: no command but SYS.RESET writes a register that the host writes and no engine does. -/
theorem keeps_operands {i : Instr} {s t : State} (ho : Outcomes s i t) (hi : i ≠ .sysReset) :
    t.key = s.key ∧ t.msg = s.msg ∧ t.opa = s.opa ∧ t.opb = s.opb ∧ t.expo = s.expo ∧
      t.modn = s.modn ∧ t.freeCount = s.freeCount := by
  cases ho with
  | sysReset => exact absurd rfl hi
  | _ => exact ⟨rfl, rfl, rfl, rfl, rfl, rfl, rfl⟩

theorem keeps_blk {i : Instr} {s t : State} (ho : Outcomes s i t) (hi : i ≠ .sysReset)
    (henc : i ≠ .desEnc) (hdec : i ≠ .desDec) : t.blk = s.blk := by
  cases ho with
  | sysReset => exact absurd rfl hi
  | desEnc => exact absurd rfl henc
  | desDec => exact absurd rfl hdec
  | _ => rfl

theorem keeps_h {i : Instr} {s t : State} (ho : Outcomes s i t) (hi : i ≠ .sysReset)
    (hinit : i ≠ .shaInit) (hblock : i ≠ .shaBlock) : t.h = s.h := by
  cases ho with
  | sysReset => exact absurd rfl hi
  | shaInit => exact absurd rfl hinit
  | shaBlock => exact absurd rfl hblock
  | _ => rfl

theorem keeps_shv {i : Instr} {s t : State} (ho : Outcomes s i t) (hi : i ≠ .sysReset)
    (hinit : i ≠ .shaInit) : t.shv = s.shv := by
  cases ho with
  | sysReset => exact absurd rfl hi
  | shaInit => exact absurd rfl hinit
  | _ => rfl

theorem keeps_res {i : Instr} {s t : State} (ho : Outcomes s i t) (hi : i ≠ .sysReset)
    (hmul : i ≠ .rsaMul) (hexp : i ≠ .rsaExp) : t.res = s.res := by
  cases ho with
  | sysReset => exact absurd rfl hi
  | rsaMul => exact absurd rfl hmul
  | rsaExp => exact absurd rfl hexp
  | _ => rfl

/-- R214: KSL is a load's to write; C, D and KSRND are also KS.STEP's. -/
theorem keeps_halves {i : Instr} {s t : State} (ho : Outcomes s i t) (hi : i ≠ .sysReset)
    (hinit : ∀ klen, i ≠ .ksInit klen) (hload : ∀ klen, i ≠ .ksLoad klen) :
    t.ksl = s.ksl ∧ (i ≠ .ksStep → t.c = s.c ∧ t.d = s.d ∧ t.ksrnd = s.ksrnd) := by
  cases ho with
  | sysReset => exact absurd rfl hi
  | ksInit => exact absurd rfl (hinit 8)
  | ksLoad => exact absurd rfl (hload 8)
  | ksStep => exact ⟨rfl, fun hstep => absurd rfl hstep⟩
  | _ => exact ⟨rfl, fun _ => ⟨rfl, rfl, rfl⟩⟩

/-- R214: outside KS.LOAD only KS.STEP writes a round key, the one at index KSRND. -/
theorem keeps_rk {i : Instr} {s t : State} (ho : Outcomes s i t) (hi : i ≠ .sysReset)
    (hload : ∀ klen, i ≠ .ksLoad klen) (j : Fin 16) (hj : i ≠ .ksStep ∨ j.val ≠ s.ksrnd.toNat) :
    t.rk[j] = s.rk[j] := by
  cases ho with
  | sysReset => exact absurd rfl hi
  | ksLoad => exact absurd rfl (hload 8)
  | ksStep r _ hr =>
    have hne : r.val ≠ j.val := by
      rw [← hr]
      exact (hj.resolve_left (not_not_intro rfl)).symm
    exact Vector.getElem_set_ne r.isLt j.isLt hne
  | _ => rfl

end Outcomes

/-- Settles O49: one frame lemma for each group of registers in R214's table. -/
theorem commandsWriteOnlyListedRegisters : Obligations.CommandsWriteOnlyListedRegisters := by
  intro i s t ht
  have ho := exec_outcomes ht
  obtain ⟨hpending, hreplies⟩ := ho.keeps_port
  refine ⟨hpending, hreplies, ho.eq_setErr_of_err_ne_zero, fun hi => ?_⟩
  obtain ⟨hkey, hmsg, hopa, hopb, hexpo, hmodn, hcount⟩ := ho.keeps_operands hi
  exact ⟨hkey, hmsg, hopa, hopb, hexpo, hmodn, hcount, ho.keeps_blk hi, ho.keeps_h hi, ho.keeps_shv hi,
    ho.keeps_res hi, ho.keeps_halves hi, ho.keeps_rk hi⟩

end Sys2Proof.Machine
end

section
/-! PROOF. The host's RD (R212) and WR (R213), and the two system commands (R210, R211). -/

namespace Sys2Proof.Machine

@[simp] theorem State.readRid_setPending (s : State) (es : List HostEvent) (rid : Nat) :
    (s.setPending es).readRid rid = s.readRid rid := rfl

theorem State.readRid_of_eq_rid (s : State) {rid : Nat} (r : Reg) (h : rid = r.rid) : s.readRid rid = s.read r := by
  rw [h, s.readRid_rid]

/-- R21: the gaps of the register space. -/
theorem Reg.ofRid_eq_none {rid : Nat}
    (h : (0x06 ≤ rid ∧ rid ≤ 0x0F) ∨ (0x25 ≤ rid ∧ rid ≤ 0x2F) ∨ 0x45 ≤ rid) : Reg.ofRid rid = none := by
  simp (disch := omega) only [Reg.ofRid, if_neg, dif_neg]

theorem State.readRid_unassigned (s : State) {rid : Nat} (h : Reg.ofRid rid = none) : s.readRid rid = 0 := by
  rw [State.readRid, h]

theorem step_read {s : State} {rid : Nat} {rest : List HostEvent} (h : s.pending = .rd rid :: rest) :
    step s = .next { s with pending := rest, replies := .data rid (s.readRid rid) :: s.replies } := by
  rw [step_event h, event_rd, State.readRid_setPending]
  rfl

/-- Settles O8: the value is `readRid`'s, clause by clause of R21's table. -/
theorem readReturnsTheRegister : Obligations.ReadReturnsTheRegister := fun s rid _ hp =>
  have hread (r : Reg) (h : rid = r.rid) : s.readRid rid = s.read r := s.readRid_of_eq_rid r h
  ⟨s.readRid rid, step_read hp, hread .cmd, hread .status, hread .key, hread .c, hread .d, hread .blk,
    fun i => hread (.rk i), fun i => hread (.h i), fun i => hread (.msg i), hread .opa, hread .opb,
    hread .expo, hread .modn, hread .res, fun h => s.readRid_unassigned (Reg.ofRid_eq_none h)⟩

theorem RegWrite.command?_eq_none {write : RegWrite} (h : ∀ w, write ≠ .cmd w) : write.command? = none :=
  Option.eq_none_iff_forall_not_mem.mpr fun w hw => h w (RegWrite.command?_eq_some hw)

/-- R213: storing does not look at the host's queue. -/
theorem State.store_setPending (s : State) (es : List HostEvent) (write : RegWrite) :
    (s.setPending es).store write = (s.store write).setPending es := by
  cases write <;> rfl

theorem step_store {s : State} {write : RegWrite} {rest : List HostEvent} (hp : s.pending = .wr write :: rest)
    (hw : ∀ w, write ≠ .cmd w) :
    step s = .next { s.store write with pending := rest, replies := .done :: s.replies } := by
  obtain ⟨-, -, -, -, -, -, -, -, -, -, hreplies, -⟩ := s.store_flags write
  rw [step_event hp, event_store (RegWrite.command?_eq_none hw), State.store_setPending, ← hreplies]
  rfl

/-- Settles O9: a write to CMD issues its word; any other is a `store`, which has one clause for each kind. -/
theorem writeStoresOrIsIgnored : Obligations.WriteStoresOrIsIgnored := by
  intro s write rest hp
  refine ⟨fun w hw => ?_, fun hw => ⟨s.store write, step_store hp hw, ?_⟩⟩
  · rw [step_event hp, hw, event_cmd]
    rfl
  · refine ⟨?_, ?_, ?_, ?_, ?_, ?_, ?_, ?ignored⟩
    case ignored =>
      rintro (⟨v, rfl⟩ | ⟨v, rfl⟩ | ⟨v, rfl⟩ | ⟨i, v, rfl⟩ | ⟨i, v, rfl⟩ | ⟨v, rfl⟩ | ⟨rid, rfl⟩) <;> rfl
    all_goals
      intros
      subst write
      rfl

/-- Settles O16: SYS.NOP does nothing but complete. -/
theorem nopClearsOnlyErr : Obligations.NopClearsOnlyErr := exec_sysNop

/-- Settles O17: with every flag 0, STATUS is 0 and no schedule is complete. -/
theorem sysResetClearsFlags : Obligations.SysResetClearsFlags := by
  intro s
  refine ⟨_, _, exec_sysReset s, fun t ht => ?_⟩
  rw [exec_sysReset] at ht
  cases ht
  exact ⟨status_eq_zero rfl rfl rfl rfl, exec_desEnc_notReady rfl⟩

end Sys2Proof.Machine
end

section
/-! PROOF. DES padding and its removal (R223, R229). -/

namespace Sys2Proof.Machine

/-- R223: the number of pad bytes, which is the value of each. -/
def desPadLength (m : List Byte) : Nat := 8 - m.length % 8

theorem desPadLength_range (m : List Byte) : 1 ≤ desPadLength m ∧ desPadLength m ≤ 8 := by
  unfold desPadLength
  omega

theorem desPad_eq (m : List Byte) :
    desPad m = m ++ List.replicate (desPadLength m) (BitVec.ofNat 8 (desPadLength m)) := rfl

theorem desPad_length (m : List Byte) : (desPad m).length = 8 * (m.length / 8 + 1) := by
  rw [desPad_eq, List.length_append, List.length_replicate, desPadLength]
  omega

/-- Settles O52: the pad length is `desPadLength`. -/
theorem desPaddingShape : Obligations.DesPaddingShape := fun m =>
  have ⟨hpos, hle⟩ := desPadLength_range m
  ⟨desPadLength m, rfl, hpos, hle, desPad_eq m, desPad_length m⟩

/-- R229: the pad bytes of `pm`, as many as the last byte says. -/
def padBytes (pm : List Byte) (last : Byte) : List Byte := pm.drop (pm.length - last.toNat)

/-- R229: the range test, the comparison of the pad bytes, and what is before them. -/
theorem desUnpad_eq {pm : List Byte} {last : Byte} (h : pm.getLast? = some last) :
    desUnpad pm = if last.toNat < 1 ∨ 8 < last.toNat then none
      else if (padBytes pm last).all (· == last) then some (pm.take (pm.length - last.toNat)) else none := by
  have hlast : pm.getLastD 0 = last := by rw [List.getLastD_eq_getLast?, h, Option.getD_some]
  have hbeq (b : Byte) : (b.toNat == last.toNat) = (b == last) := by
    rw [Bool.eq_iff_iff, beq_iff_eq, beq_iff_eq, BitVec.toNat_inj]
  simp only [desUnpad, hlast, hbeq]
  rfl

theorem desUnpad_eq_none_iff {pm : List Byte} {last : Byte} (h : pm.getLast? = some last) :
    desUnpad pm = none ↔
      (last.toNat < 1 ∨ 8 < last.toNat ∨ ∃ b ∈ padBytes pm last, b ≠ last) := by
  rw [desUnpad_eq h, ← or_assoc]
  split
  next hrange => exact iff_of_true rfl (.inl hrange)
  next hrange =>
    rw [or_iff_right hrange]
    simp

theorem desUnpad_of_ne_none {pm : List Byte} {last : Byte} (h : pm.getLast? = some last)
    (hne : desUnpad pm ≠ none) : desUnpad pm = some (pm.take (pm.length - last.toNat)) := by
  rw [desUnpad_eq h] at hne ⊢
  split at hne
  next => exact absurd rfl hne
  next hrange =>
    rw [if_neg hrange]
    simpa using hne

/-- R229: the last byte of a padded sequence says how long the pad is, and the pad bytes agree with it. -/
theorem desUnpad_desPad (m : List Byte) : desUnpad (desPad m) = some m := by
  obtain ⟨hpos, hle⟩ := desPadLength_range m
  have hp : (BitVec.ofNat 8 (desPadLength m)).toNat = desPadLength m := Nat.mod_eq_of_lt (by omega)
  have hlast : (desPad m).getLast? = some (BitVec.ofNat 8 (desPadLength m)) := by
    rw [desPad_eq, List.getLast?_append, List.getLast?_replicate, if_neg (by omega)]
    rfl
  have hlen : (desPad m).length - desPadLength m = m.length := by
    rw [desPad_eq, List.length_append, List.length_replicate, Nat.add_sub_cancel]
  have hpad : padBytes (desPad m) (BitVec.ofNat 8 (desPadLength m)) =
      List.replicate (desPadLength m) (BitVec.ofNat 8 (desPadLength m)) := by
    rw [padBytes, hp, hlen, desPad_eq, List.drop_left]
  rw [desUnpad_eq hlast, if_neg (by omega), if_pos (by simp [hpad]), hp, hlen, desPad_eq, List.take_left]

/-- Settles O53: `desUnpad_desPad`, and the two tests of `desUnpad_eq`. -/
theorem unpaddingUndoesPadding : Obligations.UnpaddingUndoesPadding :=
  ⟨desUnpad_desPad, fun _ _ h _ => ⟨desUnpad_eq_none_iff h, desUnpad_of_ne_none h⟩⟩

end Sys2Proof.Machine
end

section
/-! PROOF. The shape of a padded SHA-1 message (R240). -/

namespace Sys2Proof.Machine

theorem natToBytes_length (n v : Nat) : (natToBytes n v).length = n := by simp [natToBytes]

/-- Only whole pieces are given (R224, R241). -/
theorem pieces_length (n : Nat) (bs : List Byte) : (pieces n bs).length = bs.length / n := by simp [pieces]

theorem shaPad_length (m : List Byte) : (shaPad m).length = 64 * ((m.length + 8) / 64 + 1) := by
  simp only [shaPad, List.length_append, List.length_cons, List.length_nil, List.length_replicate,
    natToBytes_length]
  omega

/-- Settles O55: fewer zero bytes than the model's number, which is below 64, would miss 56 modulo 64. -/
theorem shaPaddingShape : Obligations.ShaPaddingShape := by
  refine fun m => ⟨(119 - m.length % 64) % 64, rfl, by omega, fun z' hz' => by omega, shaPad_length m, ?_⟩
  rw [pieces_length, shaPad_length, Nat.mul_div_cancel_left _ (by decide)]

end Sys2Proof.Machine
end

section
/-! PROOF. What a host call observes and answers (R212, R220, R263). -/

namespace Sys2Proof.Machine

/-- A host call answers from what its run observes, and keeps the answers the port gave before it. -/
theorem hostCall_of_run {α : Type} {es : List HostEvent} {s t : State} (answer : List Nat → α)
    (h : runEvents es { s with replies := [] } = .next t) :
    hostCall es s answer = .next ({ t with replies := t.replies ++ s.replies }, answer t.observed) := by
  rw [hostCall, h]

theorem State.observed_answer_data (s : State) (rid v : Nat) :
    (s.answer (.data rid v)).observed = s.observed ++ [v] := by
  simp [State.observed, Reply.value?]

/-- R212: no register holds an answer. -/
theorem State.readRid_answer (s : State) (r : Reply) : (s.answer r).readRid = s.readRid := rfl

/-- R212: what the host observes of a run of RDs is the registers they name. -/
theorem runEvents_reads (rids : List Nat) (s : State) : ∃ t,
    runEvents (rids.map .rd) s = .next t ∧ t.observed = s.observed ++ rids.map s.readRid := by
  induction rids generalizing s with
  | nil => exact ⟨s, rfl, (List.append_nil _).symm⟩
  | cons rid rids ih =>
    obtain ⟨t, ht, hobs⟩ := ih (s.answer (.data rid (s.readRid rid)))
    refine ⟨t, (runEvents_cons (event_rd rid s) _).trans ht, ?_⟩
    rw [hobs, s.observed_answer_data, s.readRid_answer, List.append_assoc]
    rfl

end Sys2Proof.Machine
end

section
/-! PROOF. RSA_ENCNUM: its two tests on the effective key, and then one power (R257, R260). -/

namespace Sys2Proof.Machine

/-- R260: the three writes are to different registers, so a number is one base through the exponentiator with the key
loaded before it. -/
theorem runEvents_numberEvents (m : Nat) {k : RsaKey} (s : State) (hn : k.modulus ≠ 0) :
    runEvents (numberEvents m k) s = .next (powerDone { s with
      expo := k.exponent, modn := k.modulus, replies := .done :: .done :: s.replies } m) := by
  have hswap : runEvents (numberEvents m k) s = runEvents (loadKeyEvents k ++ expEvents m) s := rfl
  have hload : runEvents (loadKeyEvents k) s = .next { s with
      expo := k.exponent, modn := k.modulus, replies := .done :: .done :: s.replies } := rfl
  rw [hswap, runEvents_append hload, runEvents_expEvents m hn]

theorem rsaEncNum_noKey (m : Nat) {given : Option RsaKey} {cipher : PkCipher} (s : State)
    (h : effectiveKey given cipher.pub = none) :
    rsaEncNum m given cipher s = .next (s, .error .noKeyError) := by
  rw [rsaEncNum, h]

section

variable {m : Nat} {given : Option RsaKey} {cipher : PkCipher} {k : RsaKey}

theorem rsaEncNum_tooLarge (s : State) (h : effectiveKey given cipher.pub = some k) (hm : k.modulus ≤ m) :
    rsaEncNum m given cipher s = .next (s, .error .messageTooLarge) := by
  rw [rsaEncNum, h]
  exact if_pos hm

/-- Below the modulus the modulus is not 0, so RSA.EXP gives the power. -/
theorem rsaEncNum_power (s : State) (h : effectiveKey given cipher.pub = some k) (hm : m < k.modulus) :
    ∃ answers, rsaEncNum m given cipher s = .next ({ s with
      opa := m, expo := k.exponent, modn := k.modulus, res := m ^ k.exponent % k.modulus
      err := 0, replies := answers }, .ok (m ^ k.exponent % k.modulus)) := by
  have hrun := runEvents_numberEvents m { s with replies := [] } (Nat.ne_zero_of_lt hm)
  simp only [rsaEncNum, h]
  rw [if_neg (Nat.not_le.mpr hm), hostCall_of_run _ hrun]
  exact ⟨_, rfl⟩

end

/-- Settles O58: the two tests in the order of R260, on the effective key of R257. -/
theorem encNumChecksTheRange : Obligations.EncNumChecksTheRange := by
  refine fun m given cipher s => ⟨fun hg hc => rsaEncNum_noKey m s ?_, fun k hk => ?_⟩
  · rw [hg, hc, effectiveKey]
  · have heff := effectiveKey_eq_some.mpr hk
    exact ⟨rsaEncNum_tooLarge s heff, rsaEncNum_power s heff⟩

end Sys2Proof.Machine
end

section
/-! PROOF. SHA1_HASH (R241, R244): the chunks are written and compressed, and the digest is read back. -/

namespace Sys2Proof.Machine

/-- The sixteen words of a chunk (R56). -/
def chunkWords (ch : List Byte) : Vector Word 16 := Vector.ofFn fun i => chunkWord ch i.val

theorem chunkEvents_eq (ch : List Byte) : chunkEvents ch = chunkRun (chunkWords ch) := by
  simp [chunkEvents, chunkRun, chunkWords]

/-- R170, R241: the digest of the padded message, chained over its chunks. -/
def digestOf (m : List Byte) : Vector Word 5 :=
  (pieces 64 (shaPad m)).foldl (fun h ch => shaCompress h (chunkWords ch)) shaInitial

/-- The writes and the commands of the chunks return no value. -/
theorem observed_chunksDone (ms : List (Vector Word 16)) (s : State) : (chunksDone ms s).observed = s.observed := by
  simp [State.observed, chunksDone, Reply.value?]

/-- R241: SHA.INIT and the chunks leave the digest in H, whatever the CORE held before, and return no value. -/
theorem runEvents_hashChunks (m : List Byte) (s : State) : ∃ t,
    runEvents ([.command .shaInit] ++ (pieces 64 (shaPad m)).flatMap chunkEvents) { s with replies := [] } = .next t ∧
      t.h = digestOf m ∧ t.observed = [] := by
  have hinit := event_command (i := .shaInit) rfl { s with replies := [] }
  rw [exec_shaInit, returned_next] at hinit
  have hchunks : (pieces 64 (shaPad m)).flatMap chunkEvents =
      ((pieces 64 (shaPad m)).map chunkWords).flatMap chunkRun := by
    rw [List.flatMap_map, funext chunkEvents_eq]
  refine ⟨_, hchunks ▸ (runEvents_cons hinit _).trans (runEvents_chunkRuns _ rfl rfl), ?_, ?_⟩
  · exact List.foldl_map
  · exact observed_chunksDone _ _

/-- The identifiers that SHA1_HASH reads, H[0] to H[4] (R241). -/
def digestRids : List Nat := (List.finRange 5).map fun i => Reg.rid (.h i)

theorem map_readRid_digestRids (s : State) : (digestRids.map s.readRid).map (BitVec.ofNat 32) = s.h.toList := by
  refine List.ext_getElem (by simp [digestRids]) fun i _ _ => ?_
  simp [digestRids, State.readRid_rid, State.read]

/-- R241: the values read back, as words, are the digest. -/
theorem runEvents_shaHashEvents (m : List Byte) (s : State) : ∃ t,
    runEvents (shaHashEvents m) { s with replies := [] } = .next t ∧
      t.observed.map (BitVec.ofNat 32) = (digestOf m).toList := by
  obtain ⟨u, hu, hh, hnone⟩ := runEvents_hashChunks m s
  obtain ⟨t, ht, hobs⟩ := runEvents_reads digestRids u
  rw [digestRids, List.map_map] at ht
  refine ⟨t, (runEvents_append hu _).trans ht, ?_⟩
  rw [hobs, hnone, List.nil_append, map_readRid_digestRids, hh]

/-- Settles O56: the answer is the hex text of `digestOf`. -/
theorem hashDependsOnMessageOnly : Obligations.HashDependsOnMessageOnly := by
  intro m s hm
  obtain ⟨t, ht, hobs⟩ := runEvents_shaHashEvents m s
  rw [shaHashBytes, if_pos hm, hostCall_of_run _ ht, hobs]
  exact ⟨_, rfl⟩

end Sys2Proof.Machine
end

section
/-! PROOF. Byte sequences as integers and back (R55), and the pieces of a sequence (R224). -/

namespace Sys2Proof.Machine

theorem bytesToNat_concat (bs : List Byte) (b : Byte) :
    bytesToNat (bs ++ [b]) = bytesToNat bs * 256 + b.toNat := by
  simp [bytesToNat]

theorem bytesToNat_lt (bs : List Byte) : bytesToNat bs < 256 ^ bs.length := by
  induction bs using List.reverseRecOn with
  | nil => decide
  | append_singleton bs b ih =>
    have hb := b.isLt
    rw [bytesToNat_concat, List.length_append, List.length_singleton, Nat.pow_succ]
    omega

theorem natToBytes_succ (n v : Nat) : natToBytes (n + 1) v = natToBytes n (v / 256) ++ [BitVec.ofNat 8 v] := by
  rw [natToBytes, List.range_succ, List.map_append]
  congr 1
  · refine List.map_congr_left fun k hk => ?_
    have hexp : n + 1 - 1 - k = 1 + (n - 1 - k) := by have := List.mem_range.mp hk; omega
    rw [hexp, Nat.pow_add, Nat.div_div_eq_div_mul, Nat.pow_one]
  · simp

/-- R55: the bytes of the integer that bytes stand for are those bytes. -/
theorem natToBytes_bytesToNat (bs : List Byte) : natToBytes bs.length (bytesToNat bs) = bs := by
  induction bs using List.reverseRecOn with
  | nil => rfl
  | append_singleton bs b ih =>
    have hb := b.isLt
    have hdiv : (bytesToNat bs * 256 + b.toNat) / 256 = bytesToNat bs := by omega
    have hlast : BitVec.ofNat 8 (bytesToNat bs * 256 + b.toNat) = b := by
      apply BitVec.eq_of_toNat_eq
      rw [BitVec.toNat_ofNat]
      omega
    rw [List.length_append, List.length_singleton, natToBytes_succ, bytesToNat_concat, hdiv, ih, hlast]

theorem blockBytes_blockOfBytes {bs : List Byte} (h : bs.length = 8) : blockBytes (blockOfBytes bs) = bs := by
  have hlt : bytesToNat bs < 2 ^ 64 := by simpa [h] using bytesToNat_lt bs
  have hback := natToBytes_bytesToNat bs
  rw [blockBytes, blockOfBytes, BitVec.toNat_ofNat, Nat.mod_eq_of_lt hlt]
  rwa [h] at hback

theorem length_of_mem_pieces {n : Nat} {bs p : List Byte} (h : p ∈ pieces n bs) : p.length = n := by
  obtain ⟨j, hj, rfl⟩ := List.mem_map.mp h
  have hle : n * (j + 1) ≤ bs.length :=
    (Nat.mul_le_mul_left n (List.mem_range.mp hj)).trans (Nat.mul_div_le bs.length n)
  rw [Nat.mul_succ] at hle
  rw [List.length_take, List.length_drop]
  omega

/-- The first `k` pieces of `n` bytes, one after the other, are the first `n * k` bytes. -/
theorem flatten_map_piece (n : Nat) (bs : List Byte) (k : Nat) :
    ((List.range k).map fun j => (bs.drop (n * j)).take n).flatten = bs.take (n * k) := by
  induction k with
  | zero => simp
  | succ k ih =>
    rw [List.range_succ, List.map_append, List.flatten_append, ih, Nat.mul_succ, List.take_add]
    simp

/-- R224: nothing is left over when the length is a multiple of `n`. -/
theorem flatten_pieces {n : Nat} {bs : List Byte} (h : n ∣ bs.length) : (pieces n bs).flatten = bs := by
  rw [pieces, flatten_map_piece, Nat.mul_div_cancel' h, List.take_length]

end Sys2Proof.Machine
end

section
/-! PROOF. The hex text of a block writes its value (R226), so parsing gives the blocks back (R227). -/

namespace Sys2Proof.Machine

theorem hexValue_upperDigits : ∀ x : Fin 16, hexValue upperDigits[x] = some x.val := by decide

/-- Digits that follow are added to the number of those before. -/
theorem hexNumber_append {t u : Text} {acc v : Nat} (h : hexNumber t acc = some v) :
    hexNumber (t ++ u) acc = hexNumber u v := by
  induction t generalizing acc with
  | nil => cases h; rfl
  | cons c t ih =>
    rw [List.cons_append]
    rw [hexNumber] at h ⊢
    cases hc : hexValue c with
    | none => simp [hc] at h
    | some d => rw [hc] at h; exact ih h

/-- R12: a slice of `m + k` bits is one of `m` bits and the one of `k` bits after it. -/
theorem toNat_desSlice_add {n : Nat} (v : BitVec n) {i m : Nat} (hi : 1 ≤ i) (k : Nat) (h : i + m + k ≤ n + 1) :
    (desSlice v i (m + k)).toNat = 2 ^ k * (desSlice v i m).toNat + (desSlice v (i + m) k).toNat := by
  induction k with
  | zero => rw [toNat_desSlice_zero, Nat.pow_zero, Nat.one_mul]; rfl
  | succ k ih =>
    rw [← Nat.add_assoc m k 1, toNat_desSlice_succ v hi (by omega), ih (by omega),
      toNat_desSlice_succ v (by omega) (by omega), Nat.add_assoc i m k, Nat.pow_succ']
    ring

/-- R226: the first `n` digits write the first `4 * n` bits. -/
theorem hexNumber_hexDigits {w : Nat} (v : BitVec w) {n : Nat} (h : 4 * n ≤ w) :
    hexNumber (hexDigits upperDigits n v) 0 = some (desSlice v 1 (4 * n)).toNat := by
  induction n with
  | zero => rw [Nat.mul_zero, toNat_desSlice_zero]; rfl
  | succ n ih =>
    have hdigits : hexDigits upperDigits (n + 1) v =
        hexDigits upperDigits n v ++ [upperDigits[(desSlice v (4 * n + 1) 4).toFin]] := by
      simp [hexDigits, List.range_succ]
    have hslice : (desSlice v 1 (4 * (n + 1))).toNat =
        (desSlice v 1 (4 * n)).toNat * 16 + (desSlice v (4 * n + 1) 4).toNat := by
      rw [Nat.mul_comm _ 16, Nat.add_comm (4 * n) 1]
      exact toNat_desSlice_add v (Nat.le_refl 1) (m := 4 * n) 4 (by omega)
    rw [hdigits, hexNumber_append (ih (by omega)), hexNumber, hexValue_upperDigits, hslice]
    rfl

theorem hex16_length (v : Block) : (hex16 v).length = 16 := by simp [hex16, hexDigits]

theorem hexNumber_hex16 (v : Block) : hexNumber (hex16 v) 0 = some v.toNat := by
  rw [hex16, hexNumber_hexDigits v (by decide), desSlice_whole]

theorem length_flatMap_hex16 (vs : List Block) : (vs.flatMap hex16).length = 16 * vs.length := by
  simp [List.length_flatMap, hex16_length, Nat.mul_comm]

theorem hexGroups_flatMap_hex16 (vs : List Block) : hexGroups vs.length (vs.flatMap hex16) = some vs := by
  induction vs with
  | nil => rfl
  | cons v vs ih =>
    have htake : ((v :: vs).flatMap hex16).take 16 = hex16 v := by
      rw [List.flatMap_cons, List.take_left' (hex16_length v)]
    have hdrop : ((v :: vs).flatMap hex16).drop 16 = vs.flatMap hex16 := by
      rw [List.flatMap_cons, List.drop_left' (hex16_length v)]
    rw [List.length_cons, hexGroups, htake, hdrop, hexNumber_hex16, ih]
    simp

/-- R227: the hex text of at least one block parses to the blocks. -/
theorem parseHex_flatMap_hex16 {vs : List Block} (h : vs ≠ []) : parseHex (vs.flatMap hex16) = some vs := by
  have hlen := length_flatMap_hex16 vs
  have hpos := List.length_pos_iff.mpr h
  have hne : ¬ (vs.flatMap hex16 = [] ∨ (vs.flatMap hex16).length % 16 ≠ 0) := by
    rw [← List.length_eq_zero_iff]
    omega
  rw [parseHex, if_neg hne, hlen, Nat.mul_div_cancel_left _ (by decide), hexGroups_flatMap_hex16]

end Sys2Proof.Machine
end

section
/-! PROOF. DES_NEW, DES_ENCRYPT and DES_DECRYPT (R222, R225, R228, R231): both transform every block, the second under
the reversed keys of the first. -/

namespace Sys2Proof.Machine

/-- The schedule is complete (R28) and is `rk`. -/
structure HasSchedule (rk : Vector RoundKey 16) (s : State) : Prop where
  complete : s.ksv = true
  rk_eq : s.rk = rk

/-- What one block through the engine leaves: the block function's output in BLK and in the last answer (R225,
R228). -/
def engineDone (keys : List RoundKey) (s : State) (v : Block) : State :=
  { s with
    blk := desBlock v keys, err := 0
    replies := .data (Reg.rid .blk) (desBlock v keys).toNat :: .done :: .done :: s.replies }

theorem hasSchedule_engineDone {rk : Vector RoundKey 16} {s : State} (h : HasSchedule rk s) (keys : List RoundKey)
    (v : Block) : HasSchedule rk (engineDone keys s v) := ⟨h.complete, h.rk_eq⟩

theorem observed_engineDone (keys : List RoundKey) (s : State) (v : Block) :
    (engineDone keys s v).observed = s.observed ++ [(desBlock v keys).toNat] := by
  simp only [State.observed, engineDone, List.reverse_cons, List.append_assoc, List.filterMap_append]
  rfl

section

variable {i : Instr} {rk : Vector RoundKey 16} {keys : List RoundKey}

theorem Transforms.runEvents_blockEvents (hi : Transforms i rk keys) (hwf : i.wf = true) {s : State}
    (hs : HasSchedule rk s) (v : Block) : runEvents (blockEvents i v) s = .next (engineDone keys s v) := by
  have hcmd := event_command hwf ((s.store (.blk v)).answer .done)
  rw [hi ((s.store (.blk v)).answer .done) hs.complete hs.rk_eq, returned_next] at hcmd
  rw [blockEvents, runEvents_cons (event_store rfl s), runEvents_cons hcmd, runEvents_cons (event_rd _ _),
    State.readRid_rid]
  rfl

theorem Transforms.runEvents_blocks (hi : Transforms i rk keys) (hwf : i.wf = true) (vs : List Block) {s : State}
    (hs : HasSchedule rk s) : ∃ t, runEvents (vs.flatMap (blockEvents i)) s = .next t ∧ HasSchedule rk t ∧
      t.observed = s.observed ++ (vs.map (desBlock · keys)).map BitVec.toNat := by
  induction vs generalizing s with
  | nil => exact ⟨s, rfl, hs, (List.append_nil _).symm⟩
  | cons v vs ih =>
    obtain ⟨t, ht, hrk, hobs⟩ := ih (hasSchedule_engineDone hs keys v)
    refine ⟨t, (runEvents_append (hi.runEvents_blockEvents hwf hs v) _).trans ht, hrk, ?_⟩
    rw [hobs, observed_engineDone, List.append_assoc]
    rfl

/-- R225, R228: the host call that puts blocks through the engine answers from what the block function makes of
them, and leaves the schedule. -/
theorem Transforms.hostCall_blocks {α : Type} (hi : Transforms i rk keys) (hwf : i.wf = true) (vs : List Block)
    {s : State} (hs : HasSchedule rk s) (answer : List Nat → α) : ∃ t, HasSchedule rk t ∧
      hostCall (vs.flatMap (blockEvents i)) s answer =
        .next (t, answer ((vs.map (desBlock · keys)).map BitVec.toNat)) := by
  have hs' : HasSchedule rk { s with replies := [] } := ⟨hs.complete, hs.rk_eq⟩
  obtain ⟨t, ht, hrk, hobs⟩ := hi.runEvents_blocks hwf vs hs'
  rw [hostCall_of_run answer ht, hobs]
  refine ⟨_, ?_, rfl⟩
  exact ⟨hrk.complete, hrk.rk_eq⟩

end

/-- A block survives the integer view in which RD returns it (R11). -/
theorem flatMap_toNat {α : Type} (f : Block → List α) (vs : List Block) :
    ((vs.map BitVec.toNat).flatMap fun v => f (BitVec.ofNat 64 v)) = vs.flatMap f := by
  simp [List.flatMap_map]

/-- R23: the low four bits of STATUS are ERR. -/
theorem status_toNat_mod (s : State) : s.status.toNat % 16 = s.err.toNat := by
  rw [← status_err_field s, BitVec.extractLsb'_toNat]
  rfl

/-- The CORE after the write of a key and KS.LOAD, with its two answers (R222). -/
def keyScheduled (k : Block) (s : State) : State :=
  (ksLoadDone ((s.store (.key k)).answer .done)).answer .done

theorem observed_keyScheduled (k : Block) (s : State) : (keyScheduled k s).observed = s.observed := by
  simp [State.observed, keyScheduled, ksLoadDone, State.store, Reply.value?]

theorem runEvents_desNewEvents {key : List Byte} (s : State) (h : key.length = 8) :
    runEvents (desNewEvents key) s = .next ((keyScheduled (blockOfBytes key) s).answer
      (.data (Reg.rid .status) (keyScheduled (blockOfBytes key) s).status.toNat)) := by
  have hload := event_command (i := .ksLoad 8) rfl ((s.store (.key (blockOfBytes key))).answer .done)
  rw [exec_ksLoad, returned_next] at hload
  have hevents : desNewEvents key =
      [.wr (.key (blockOfBytes key)), .command (.ksLoad 8), .rd (Reg.rid .status)] := by
    rw [desNewEvents, if_pos h, h]
    rfl
  rw [hevents, runEvents_cons (event_store rfl s), runEvents_cons hload, runEvents_cons (event_rd _ _),
    State.readRid_rid]
  rfl

/-- R222: an 8-byte key makes a cipher, the CORE with the key's schedule complete. -/
theorem desNew_eq {key : List Byte} (s : State) (h : key.length = 8) :
    ∃ t, HasSchedule (scheduleOf (blockOfBytes key)) t ∧ desNew key s = .next (t, .ok ()) := by
  have herr : (keyScheduled (blockOfBytes key) { s with replies := [] }).status.toNat % 16 = 0 :=
    status_toNat_mod _
  rw [desNew, hostCall_of_run _ (runEvents_desNewEvents _ h), State.observed_answer_data, observed_keyScheduled]
  refine ⟨_, ?_, congrArg (fun r => Host.Outcome.next (_, r)) (if_neg ?_)⟩
  · exact ⟨rfl, rfl⟩
  · exact fun hbad => Nat.zero_ne_one (herr.symm.trans hbad)

/-- R224: the blocks of a padded plaintext. -/
def paddedBlocks (m : List Byte) : List Block := (pieces 8 (desPad m)).map blockOfBytes

theorem paddedBlocks_length (m : List Byte) : (paddedBlocks m).length = m.length / 8 + 1 := by
  rw [paddedBlocks, List.length_map, pieces_length, desPad_length, Nat.mul_div_cancel_left _ (by decide)]

theorem flatMap_blockBytes_paddedBlocks (m : List Byte) : (paddedBlocks m).flatMap blockBytes = desPad m := by
  have hback : (pieces 8 (desPad m)).map (blockBytes ∘ blockOfBytes) = pieces 8 (desPad m) :=
    (List.map_congr_left fun p hp => blockBytes_blockOfBytes (length_of_mem_pieces hp)).trans (List.map_id _)
  rw [paddedBlocks, List.flatMap_def, List.map_map, hback, flatten_pieces ⟨_, desPad_length m⟩]

/-- R225: the ciphertext blocks, in hex. -/
theorem desEncrypt_eq (enc : TextEnc) (plaintext : Message) {rk : Vector RoundKey 16} {s : State}
    (hs : HasSchedule rk s) : ∃ t, HasSchedule rk t ∧ desEncrypt enc plaintext s =
      .next (t, ((paddedBlocks (plaintext.toBytes enc)).map (desBlock · rk.toList)).flatMap hex16) := by
  obtain ⟨t, hrk, ht⟩ := (desEnc_transforms rk).hostCall_blocks rfl (paddedBlocks (plaintext.toBytes enc)) hs
    fun vs => vs.flatMap fun v => hex16 (BitVec.ofNat 64 v)
  rw [flatMap_toNat] at ht
  exact ⟨t, hrk, (if_neg (by simp [hs.complete])).trans ht⟩

/-- R228: the ciphertext blocks under the reversed keys, as bytes. -/
theorem desDecrypt_eq (enc : TextEnc) {vs : List Block} (hvs : vs ≠ []) {rk : Vector RoundKey 16} {s : State}
    (hs : HasSchedule rk s) : ∃ t, desDecrypt enc (vs.flatMap hex16) s =
      .next (t, decryptedText enc ((vs.map (desBlock · rk.toList.reverse)).flatMap blockBytes)) := by
  obtain ⟨t, -, ht⟩ := (desDec_transforms rk).hostCall_blocks rfl vs hs
    fun vs => decryptedText enc (vs.flatMap fun v => blockBytes (BitVec.ofNat 64 v))
  rw [flatMap_toNat] at ht
  rw [desDecrypt, if_neg (by simp [hs.complete]), parseHex_flatMap_hex16 hvs]
  exact ⟨t, ht⟩

/-- R230: without a padding error what remains is the decoding. -/
theorem decryptedText_desPad (enc : TextEnc) (m : List Byte) :
    decryptedText enc (desPad m) = (enc.decode m).elim (.error .decodeError) .ok := by
  simp only [decryptedText, desUnpad_desPad]
  cases enc.decode m <;> rfl

/-- Settles O54: the reversed keys give the padded blocks back, and the padding is removed. -/
theorem desEncryptDecryptRoundTrip : Obligations.DesEncryptDecryptRoundTrip := by
  intro enc key plaintext s hkey
  obtain ⟨s1, hs1, hnew⟩ := desNew_eq s hkey
  generalize scheduleOf (blockOfBytes key) = rk at hs1
  obtain ⟨s2, hs2, henc⟩ := desEncrypt_eq enc plaintext hs1
  generalize plaintext.toBytes enc = m at henc ⊢
  have hlen : ((paddedBlocks m).map (desBlock · rk.toList)).length = m.length / 8 + 1 := by
    rw [List.length_map, paddedBlocks_length]
  obtain ⟨s3, hdec⟩ := desDecrypt_eq enc (List.ne_nil_of_length_eq_add_one hlen) hs2
  have hback : ((paddedBlocks m).map (desBlock · rk.toList)).map (desBlock · rk.toList.reverse) =
      paddedBlocks m := by
    simp [Function.comp_def, desBlock_reverse]
  refine ⟨s1, s2, s3, _, hnew, henc, ?_, ?_⟩
  · rw [length_flatMap_hex16, hlen]
  · rw [hdec, hback, flatMap_blockBytes_paddedBlocks, decryptedText_desPad]
    cases enc.decode m <;> rfl

end Sys2Proof.Machine
end

section
/-! PROOF. Extended Euclid (R255): the coefficients keep each remainder a multiple of `e` modulo phi. -/

namespace Sys2Proof.Machine

/-- With enough fuel Euclid ends in the greatest common divisor, and its coefficient makes `e` congruent to it. -/
theorem egcd_spec {e phi : Nat} {fuel r0 r1 : Nat} {t0 t1 : Int} (hfuel : r1 < fuel)
    (h0 : e * t0 ≡ r0 [ZMOD phi]) (h1 : e * t1 ≡ r1 [ZMOD phi]) :
    (egcd fuel r0 r1 t0 t1).1 = Nat.gcd r0 r1 ∧
      e * (egcd fuel r0 r1 t0 t1).2 ≡ Nat.gcd r0 r1 [ZMOD phi] := by
  induction fuel generalizing r0 r1 t0 t1 with
  | zero => omega
  | succ fuel ih =>
    rw [egcd]
    split
    next hr =>
      rw [hr, Nat.gcd_zero_right]
      exact ⟨rfl, h0⟩
    next hr =>
      have hlt : r0 % r1 < r1 := Nat.mod_lt _ (Nat.pos_of_ne_zero hr)
      have hnext : e * (t0 - (r0 / r1 : Nat) * t1) ≡ (r0 % r1 : Nat) [ZMOD phi] := by
        have hdiv : ((r0 % r1 : Nat) : Int) = r0 - (r0 / r1 : Nat) * r1 := by
          have := Nat.div_add_mod' r0 r1
          omega
        rw [hdiv, mul_sub, mul_left_comm]
        exact h0.sub (h1.mul_left _)
      rw [Nat.gcd_comm, Nat.gcd_rec, Nat.gcd_comm]
      exact ih (by omega) h1 hnext

/-- R255: the inverse, where there is one. -/
theorem modInverse_of_coprime {e phi : Nat} (hphi : 1 < phi) (h : Nat.gcd e phi = 1) :
    ∃ d, modInverse e phi = some d ∧ d < phi ∧ e * d % phi = 1 := by
  obtain ⟨hg, ht⟩ := egcd_spec (e := e) (phi := phi) (fuel := phi + 1) (r0 := e) (r1 := phi) (t0 := 1) (t1 := 0)
    (Nat.lt_succ_self phi) (by rw [mul_one]) (by simp [Int.ModEq])
  rw [h] at hg ht
  generalize hr : egcd (phi + 1) e phi 1 0 = r at hg ht
  have hnonneg : 0 ≤ r.2 % (phi : Int) := Int.emod_nonneg _ (by omega)
  have hlt : r.2 % (phi : Int) < phi := Int.emod_lt_of_pos _ (by omega)
  have hinv : e * (r.2 % phi).toNat ≡ 1 [MOD phi] := by
    rw [← Int.natCast_modEq_iff, Nat.cast_mul, Int.toNat_of_nonneg hnonneg]
    exact ((Int.mod_modEq r.2 phi).mul_left e).trans ht
  refine ⟨(r.2 % phi).toNat, ?_, by omega, Nat.mod_eq_of_modEq hinv hphi⟩
  simp only [modInverse, hr, hg, if_true]

end Sys2Proof.Machine
end

section
/-! PROOF. Key generation (R251 to R254): what is known of the numbers it holds, at every draw. -/

namespace Sys2Proof.Machine

/-- R252: an odd number of `b` bits. -/
structure OddOfBits (b n : Nat) : Prop where
  odd : n % 2 = 1
  lower : 2 ^ (b - 1) < n
  upper : n < 2 ^ b

/-- R252: the two bits that are set make the candidate odd and at least `2 ^ (b - 1)`, which is even. -/
theorem oddOfBits_primeCandidate {b x : Nat} (hb : 2 ≤ b) (hx : x < 2 ^ b) : OddOfBits b (primeCandidate b x) := by
  have hpow : 2 ^ (b - 1) < 2 ^ b := Nat.pow_lt_pow_right (by decide) (by omega)
  have hone : 1 < 2 ^ b := Nat.one_lt_two_pow (by omega)
  have heven : 2 ^ (b - 1) % 2 = 0 := Nat.mod_eq_zero_of_dvd (dvd_pow_self 2 (by omega))
  have hodd : primeCandidate b x % 2 = 1 := Nat.or_mod_two_eq_one.mpr (.inr rfl)
  have hle : 2 ^ (b - 1) ≤ primeCandidate b x := Nat.right_le_or.trans Nat.left_le_or
  exact ⟨hodd, by omega, Nat.or_lt_two_pow (Nat.or_lt_two_pow hx hpow) hone⟩

/-- R251: two different odd numbers of `b` bits, of which nothing is claimed as to primality. -/
structure FactorPair (b p q : Nat) : Prop where
  ne : p ≠ q
  left : OddOfBits b p
  right : OddOfBits b q

theorem FactorPair.one_lt_totient {b p q : Nat} (hb : 2 ≤ b) (h : FactorPair b p q) : 1 < totient p q := by
  have htwo : 2 ^ 1 ≤ 2 ^ (b - 1) := Nat.pow_le_pow_right (by decide) (by omega)
  have hp := h.left.lower
  have hq := h.right.lower
  exact Nat.one_lt_mul_iff.mpr (by omega)

/-- R254: 65537, or a replacement for it that was drawn because it has a factor in common with phi. -/
structure ExponentFor (p q e : Nat) : Prop where
  coprime : Nat.gcd e (totient p q) = 1
  choice : e = 65537 ∨ (e % 2 = 1 ∧ 3 ≤ e ∧ e < totient p q ∧ Nat.gcd 65537 (totient p q) ≠ 1)

/-- R251: a generated pair. -/
inductive Generated (b : Nat) : KeyPair → Prop where
  | mk (p q e d : Nat) (hpq : FactorPair b p q) (he : ExponentFor p q e) (hd : d < totient p q)
      (hinv : e * d % totient p q = 1) : Generated b { pub := ⟨e, p * q⟩, prv := ⟨d, p * q⟩ }

/-- What is known of a key generation, with `b` bits for each prime. -/
inductive KeyGen.Sound (b : Nat) : KeyGen → Prop where
  | candidate {p : Option Nat} (hp : ∀ x ∈ p, OddOfBits b x) : Sound b (.candidate p)
  | witness {p : Option Nat} {c passed : Nat} (hp : ∀ x ∈ p, OddOfBits b x) (hc : OddOfBits b c) :
      Sound b (.witness p c passed)
  | exponent {p q : Nat} (hpq : FactorPair b p q) (he : Nat.gcd 65537 (totient p q) ≠ 1) : Sound b (.exponent p q)
  | finished {pair : KeyPair} (h : Generated b pair) : Sound b (.finished pair)
  | drawOutOfRange : Sound b .drawOutOfRange

section

variable {b : Nat} (hb : 2 ≤ b)

include hb

/-- U7: with an exponent coprime to phi the inverse is found. -/
theorem sound_finishPair {p q e : Nat} (hpq : FactorPair b p q) (he : ExponentFor p q e) :
    KeyGen.Sound b (finishPair p q e) := by
  obtain ⟨d, hd, hlt, hinv⟩ := modInverse_of_coprime (hpq.one_lt_totient hb) he.coprime
  simp only [finishPair, hd]
  exact .finished (.mk p q e d hpq he hlt hinv)

theorem sound_chooseE {p q : Nat} (hpq : FactorPair b p q) : KeyGen.Sound b (chooseE p q) := by
  rw [chooseE]
  split
  next he => exact sound_finishPair hb hpq ⟨he, .inl rfl⟩
  next he => exact .exponent hpq he

theorem sound_acceptPrime {p : Option Nat} {c : Nat} (hp : ∀ x ∈ p, OddOfBits b x) (hc : OddOfBits b c) :
    KeyGen.Sound b (acceptPrime p c) := by
  cases p with
  | none => exact .candidate fun x hx => Option.some.inj hx ▸ hc
  | some p =>
    rw [acceptPrime]
    split
    next => exact .candidate hp
    next hne => exact sound_chooseE hb ⟨Ne.symm hne, hp p rfl, hc⟩

/-- R251 to R254: every draw keeps what is known. -/
theorem KeyGen.Sound.draw {g : KeyGen} (h : g.Sound b) (x : Nat) : (g.draw b x).Sound b := by
  cases h with
  | candidate hp =>
    rw [KeyGen.draw]
    split
    next hx => exact .witness hp (oddOfBits_primeCandidate hb hx)
    next => exact .drawOutOfRange
  | witness hp hc =>
    rw [KeyGen.draw]
    split
    next => exact .drawOutOfRange
    next =>
      split
      next => exact .candidate hp
      next =>
        split
        next => exact .witness hp hc
        next => exact sound_acceptPrime hb hp hc
  | exponent hpq he =>
    rw [KeyGen.draw]
    split
    next => exact .drawOutOfRange
    next hrange =>
      obtain ⟨hodd, h3, hlt⟩ := not_not.mp hrange
      split
      next hcop => exact sound_finishPair hb hpq ⟨hcop, .inr ⟨hodd, h3, hlt, he⟩⟩
      next => exact .exponent hpq he
  | finished h => exact .finished h
  | drawOutOfRange => exact .drawOutOfRange

theorem KeyGen.Sound.foldl_draw {g : KeyGen} (h : g.Sound b) (draws : List Nat) :
    (draws.foldl (KeyGen.draw b) g).Sound b := by
  induction draws generalizing g with
  | nil => exact h
  | cons x draws ih => exact ih (h.draw hb x)

end

theorem sound_keyGenRun {bitLength : Nat} (h : 16 ≤ bitLength) (draws : List Nat) :
    (keyGenRun bitLength draws).Sound (bitLength / 2) :=
  KeyGen.Sound.foldl_draw (by omega) (.candidate (by simp)) draws

/-- Settles O57: `KeyGen.Sound` has no case for InverseNotFound, and its case for a finished run is the claim. -/
theorem generatedExponentsAreInverse : Obligations.GeneratedExponentsAreInverse := by
  intro bitLength draws h
  have hsound := sound_keyGenRun h draws
  refine ⟨fun hrun => ?_, fun pair hrun => ?_⟩
  · rw [hrun] at hsound
    cases hsound
  · rw [hrun] at hsound
    have hpair : Generated (bitLength / 2) pair := by
      cases hsound
      assumption
    obtain ⟨p, q, e, d, ⟨hne, hp, hq⟩, ⟨hcop, hchoice⟩, hlt, hinv⟩ := hpair
    exact ⟨_, _, _, _, rfl, hne, hp.odd, hp.lower, hp.upper, hq.odd, hq.lower, hq.upper, hcop, hchoice, hlt, hinv⟩

end Sys2Proof.Machine
end

section
/-! PROOF. The errors a command word raises: the code each leaves (R270), and that it leaves nothing else (R272). -/

namespace Sys2Proof.Machine

/-- A word, like the command it decodes to, neither reads nor writes the host's queue and answers. -/
theorem issue_port {w : Word} {s t : State} (h : issue w s = .next t) (es : List HostEvent) (rs : List Reply) :
    issue w { s with pending := es, replies := rs } = .next { t with pending := es, replies := rs } := by
  obtain ⟨i, hd, hi⟩ | ⟨hd, rfl⟩ := issue_cases h
  · rw [issue_of_decode hd]
    exact exec_port hi es rs
  · exact issue_of_no_decode hd _

/-- R272, R276: no word leaves ERR other than 0 together with another change. -/
theorem issue_eq_setErr_of_err_ne_zero {w : Word} {s t : State} (h : issue w s = .next t) (he : t.err ≠ 0) :
    t = s.setErr t.err := by
  obtain ⟨i, -, hi⟩ | ⟨-, rfl⟩ := issue_cases h
  · exact (exec_outcomes hi).eq_setErr_of_err_ne_zero he
  · rfl

/-- Settles O13: the error changes ERR alone, and the word does the same once its write has left the queue. -/
theorem raiseChangesOnlyErr : Obligations.RaiseChangesOnlyErr := by
  intro s t w h he
  have ht : t = { s with err := t.err } := issue_eq_setErr_of_err_ne_zero h he
  refine ⟨ht, fun rest => ?_⟩
  calc step { s with pending := .wr (.cmd w) :: rest }
      = returned (issue w { s with pending := rest, replies := s.replies }) := rfl
    _ = returned (.next { t with pending := rest, replies := s.replies }) := by rw [issue_port h]
    _ = .next { s with err := t.err, pending := rest, replies := .done :: s.replies } := by rw [ht]; rfl

@[simp] theorem ksInitDone_err (s : State) : (ksInitDone s).err = 0 := rfl

@[simp] theorem ksLoadDone_err (s : State) : (ksLoadDone s).err = 0 := rfl

namespace Outcomes

variable {i : Instr} {s t : State}

/-- R273. -/
theorem err_eq_one_iff (ho : Outcomes s i t) :
    t.err = 1 ↔ ∃ klen, klen ≠ 8 ∧ (i = .ksLoad klen ∨ i = .ksInit klen) := by
  cases ho with
  | ksInitBad klen hk => exact iff_of_true rfl ⟨klen, hk, .inr rfl⟩
  | ksLoadBad klen hk => exact iff_of_true rfl ⟨klen, hk, .inl rfl⟩
  | _ => simp

/-- R274. -/
theorem err_eq_two_iff (ho : Outcomes s i t) :
    t.err = 2 ↔ (i = .ksStep ∧ s.ksl = false) ∨ ((i = .desEnc ∨ i = .desDec) ∧ s.ksv = false) ∨
      (i = .shaBlock ∧ s.shv = false) := by
  cases ho with
  | ksStepNotReady h => exact iff_of_true rfl (.inl ⟨rfl, h⟩)
  | desEncNotReady h => exact iff_of_true rfl (.inr (.inl ⟨.inl rfl, h⟩))
  | desDecNotReady h => exact iff_of_true rfl (.inr (.inl ⟨.inr rfl, h⟩))
  | shaBlockNotReady h => exact iff_of_true rfl (.inr (.inr ⟨rfl, h⟩))
  | ksStepFull h | ksStep _ h | desEnc h | desDec h | shaBlock h => simp [h]
  | _ => simp

/-- R275: KS.STEP derives a round key only while KSRND is below 16. -/
theorem err_eq_three_iff (ho : Outcomes s i t) : t.err = 3 ↔ i = .ksStep ∧ s.ksl = true ∧ s.ksrnd = 16 := by
  cases ho with
  | ksStepFull h hr => exact iff_of_true rfl ⟨rfl, h, hr⟩
  | ksStepNotReady h => simp [h]
  | ksStep j h hr =>
    have hne : s.ksrnd ≠ 16 := fun h16 => j.isLt.ne (by rw [← hr, h16]; rfl)
    exact iff_of_false (by simp) fun ⟨_, _, h16⟩ => hne h16
  | _ => simp

/-- R277. -/
theorem err_eq_four_iff (ho : Outcomes s i t) : t.err = 4 ↔ (i = .rsaMul ∨ i = .rsaExp) ∧ s.modn = 0 := by
  cases ho with
  | rsaMulModulus h => exact iff_of_true rfl ⟨.inl rfl, h⟩
  | rsaExpModulus h => exact iff_of_true rfl ⟨.inr rfl, h⟩
  | rsaMul h | rsaExp h => simp [h]
  | _ => simp

/-- R276: a command raises no IllegalCommand, and the codes above are reserved. -/
theorem err_toNat_lt_five (ho : Outcomes s i t) : t.err.toNat < 5 := by
  cases ho <;> simp

end Outcomes

/-- Settles O14: for a word that decodes, one lemma for each code a command raises; a word that does not leaves 5. -/
theorem commandOutcomeCodes : Obligations.CommandOutcomeCodes := by
  intro s t w h
  obtain ⟨i, hd, hi⟩ | ⟨hd, rfl⟩ := issue_cases h
  · have ho := exec_outcomes hi
    have hlt := ho.err_toNat_lt_five
    have h5 : t.err ≠ 5 := fun h5 => absurd hlt (by rw [h5]; decide)
    simp only [hd, Except.ok.injEq]
    exact ⟨ho.err_eq_one_iff, ho.err_eq_two_iff, ho.err_eq_three_iff, ho.err_eq_four_iff,
      iff_of_false h5 fun hn => hn i rfl, hlt.le⟩
  · simp [hd]

end Sys2Proof.Machine
end

section
/-! PROOF. Commands of two engines in either order (R323): each acts through `Engine.overlay`, and the overlays of two
engines write different registers. -/

namespace Sys2Proof.Machine

@[simp] theorem Engine.overlay_self (g : Engine) (s : State) : g.overlay s s = s := by
  cases g <;> rfl

/-- ERR passes through an overlay unread. -/
@[simp] theorem Engine.overlay_setErr (g : Engine) (e : BitVec 4) (s u : State) :
    g.overlay s (u.setErr e) = (g.overlay s u).setErr e := by
  cases g <;> rfl

@[simp] theorem Engine.setErr_overlay (g : Engine) (e : BitVec 4) (s u : State) :
    g.overlay (s.setErr e) u = g.overlay s u := by
  cases g <;> rfl

/-- An engine's overlay holds none of another engine's registers. -/
theorem Engine.overlay_overlay_of_ne {g h : Engine} (hgh : g ≠ h) (s t u : State) :
    h.overlay (g.overlay s t) u = h.overlay t u := by
  cases g <;> cases h
  case cipher.cipher | hash.hash | rsa.rsa => exact absurd rfl hgh
  all_goals rfl

theorem Engine.overlay_comm {g h : Engine} (hgh : g ≠ h) (s t u : State) :
    g.overlay s (h.overlay t u) = h.overlay t (g.overlay s u) := by
  cases g <;> cases h
  case cipher.cipher | hash.hash | rsa.rsa => exact absurd rfl hgh
  all_goals rfl

/-- R214: an engine's command leaves the state before it but for its engine's registers and ERR. -/
theorem Outcomes.eq_setErr_overlay {i : Instr} {g : Engine} {s t : State} (ho : Outcomes s i t)
    (hg : engineOf i = some g) : t = (g.overlay t s).setErr t.err := by
  have hs := ho.overlay hg s
  rw [Engine.overlay_self] at hs
  exact Host.Outcome.next.inj ((exec_of_outcomes ho).symm.trans (exec_of_outcomes hs))

/-- R323: after a command every other engine's registers are those before it. -/
theorem Outcomes.overlay_after_before {i : Instr} {g h : Engine} {s t : State} (ho : Outcomes s i t)
    (hg : engineOf i = some g) (hgh : g ≠ h) : h.overlay t s = s := by
  rw [ho.eq_setErr_overlay hg, Engine.setErr_overlay, Engine.overlay_overlay_of_ne hgh, Engine.overlay_self]

theorem Outcomes.overlay_before_after {i : Instr} {g h : Engine} {s t : State} (ho : Outcomes s i t)
    (hg : engineOf i = some g) (hgh : g ≠ h) : h.overlay s t = t := by
  rw [ho.eq_setErr_overlay hg, Engine.overlay_setErr, Engine.overlay_comm hgh.symm, Engine.overlay_self]

/-- Settles O51: the second command runs over the first state, the first over what that leaves, and both orders put
the two engines' registers over the same rest. -/
theorem enginesCommute : Obligations.EnginesCommute := by
  intro i j g h s a b hi hj hgh ha hb
  have hoi := exec_outcomes ha
  have hoj := exec_outcomes hb
  have hjs := hoj.overlay hj s
  rw [hoi.overlay_after_before hi hgh] at hjs
  have hic := hoi.overlay hi ((h.overlay b s).setErr b.err)
  rw [hjs.overlay_before_after hj hgh.symm] at hic
  refine ⟨_, _, exec_of_outcomes hjs, exec_of_outcomes hic, ?_, rfl, rfl⟩
  calc (g.overlay a ((h.overlay b s).setErr b.err)).setErr 0
      = (h.overlay b ((g.overlay a s).setErr a.err)).setErr 0 := by
        simp only [Engine.overlay_setErr, Engine.overlay_comm hgh, State.setErr_setErr]
    _ = ((h.overlay b a).setErr b.err).setErr 0 := by
        rw [← hoi.eq_setErr_overlay hi, State.setErr_setErr]
    _ = b.setErr 0 := by rw [← hoj.eq_setErr_overlay hj]

end Sys2Proof.Machine
end

section
/-! PROOF. The idle CORE (R300) and the two kinds of hardware reset (R301, R302). -/

namespace Sys2Proof.Machine

/-- Settles O10: with no event waiting there is nothing to take. -/
theorem idleCoreDoesNothing : Obligations.IdleCoreDoesNothing := fun _ => step_idle

/-- Settles O11: each of the two events, and SYS.RESET, is `resetCore`. -/
theorem hardwareResetEqualsSysReset : Obligations.HardwareResetEqualsSysReset := by
  rintro s e rest (rfl | ⟨w, rfl⟩) hp
  · rw [step_event hp, event_reset, exec_sysReset, State.setPending]
  · rw [step_event hp, event_resetDuring, exec_sysReset, State.setPending]

end Sys2Proof.Machine
end
